-- ==== Sys2Proof/Word.lean ====
section
/-! DEFINITION. The word types of the block (00_scope.md R9): 32-bit CSRs and host addresses, 8-bit buffer
elements, 1-bit grid cells (a `Bool`), the 16-bit checksum accumulator. -/

namespace Sys2Proof

/-- A 32-bit CSR, host address or command word (R9). -/
abbrev Word := BitVec 32

/-- An 8-bit buffer element (R9); also one ASCII character of the payload (R12). -/
abbrev Byte := BitVec 8

/-- The 16-bit checksum accumulator (R9). -/
abbrev Word16 := BitVec 16

end Sys2Proof
end

