-- ==== Sys2Proof/Config.lean ====
section
/-! DEFINITION. What an implementation of the block fixes (00_scope.md R8) and the free values behind the spec's
"any value" (93_implementation_defined.md U1 to U11). Every free value is an `opaque` constant: no proof can see
what it is, so a claim holds for every value of it. -/

namespace Sys2Proof

/-- R8, R212: which container the deflate compressor emits. -/
inductive DeflateFormat where
  | zlib   -- RFC 1950
  | raw    -- RFC 1951
  deriving DecidableEq, Repr, Inhabited

namespace Config

/-- R8: PIX_BYTES = 4 * (pixUnits + 1), so it is a multiple of 4 from 4 to 2^28. -/
opaque pixUnits : BitVec 26

/-- R8: GRID_BITS = 32 * (gridUnits + 1), so it is a multiple of 32 from 32 to 2^31. -/
opaque gridUnits : BitVec 26

/-- R8: PACK_BYTES = 4 * (packUnits + 1), so it is a multiple of 4 from 4 to 2^28. -/
opaque packUnits : BitVec 26

/-- R8: OUT_BYTES = 4 * (outUnits + 3) with outUnits below 2^26 - 2, so it is a multiple of 4 from 12 to 2^28. -/
opaque outUnits : Fin 67108862

/-- R8: the capacity of PIX in bytes (log 7). -/
def pixBytes : Nat := 4 * (pixUnits.toNat + 1)

/-- R8: the capacity of GRID in one-bit cells (log 7). -/
def gridBits : Nat := 32 * (gridUnits.toNat + 1)

/-- R8: the capacity of PACK in bytes (log 7). -/
def packBytes : Nat := 4 * (packUnits.toNat + 1)

/-- R8: the capacity of OUT in bytes (log 7). -/
def outBytes : Nat := 4 * (outUnits.val + 3)

/-- R8, R211: the compressor, a total function to `Fail` (`none`) or a byte sequence (log 8). -/
opaque deflate : List Byte → Option (List Byte)

/-- R8: the container `deflate` emits (log 8). -/
opaque deflateFormat : DeflateFormat

/-- The decoder of a deflate container, `none` where the bytes are no such stream. The spec leaves the algorithm
out (R6, R212); only the round-trip premise names it (log 8). -/
opaque inflate : DeflateFormat → List Byte → Option (List Byte)

/-- R212, the named property Round trip: a premise a claim may take, never assumed by the model. -/
def DeflateRoundTrip : Prop :=
  ∀ x d, deflate x = some d → inflate deflateFormat d = some x

/-- R212, the named property Total: a premise a claim may take, never assumed by the model. -/
def DeflateTotal : Prop := ∀ x, deflate x ≠ none

/-- U1 to U4, U7, U8: the byte that element `i` of a byte buffer holds where nothing has written it since draw
number `epoch` (log 3, log 4). -/
opaque anyByte : (epoch i : Nat) → Byte

/-- U1, U3, U4, U6: the same for cell `i` of GRID (log 3, log 4). -/
opaque anyBit : (epoch i : Nat) → Bool

/-- U5: the data of draw number `n`, for a read that returns any value while BUSY = 1 (log 5). -/
opaque anyWord : (n : Nat) → Word

/-- U10: how many host accesses fall inside the `n`-th stage the block starts, where the environment has not
fixed it (log 2). -/
opaque duration : (n : Nat) → Nat

end Config

end Sys2Proof
end

