-- ==== Sys2Proof/Syntax.lean ====
section
/-! DEFINITION. The instructions of spec/opcode_table.json, one constructor a row, and the host operations and
outside events a run is made of (30_encoding.md R90, 70_reset_and_hazards.md R280). -/

namespace Sys2Proof

/-- The command words of 30_encoding.md R92 and CRC.FEED (R88). A command carries no immediate (R87); `v` is the
word written to CRC_DATA. The five rotate codes stay five instructions, so that a command keeps its own word. -/
inductive Instr where
  | crcInit
  | thresh
  | loadGrid
  | packN
  | packI
  | packL
  | packB
  | packR
  | loadPack
  | encZ64
  | encAcs
  | convertZ64N
  | convertZ64I
  | convertZ64L
  | convertZ64B
  | convertZ64R
  | convertAcsN
  | convertAcsI
  | convertAcsL
  | convertAcsB
  | convertAcsR
  | softReset
  | crcFeed (v : Word)
  deriving DecidableEq, Repr

/-- R82, R89: the four orientations; code B decodes to `rotateLeft`. -/
inductive Orient where
  | normal
  | invert
  | rotateLeft
  | rotateRight
  deriving DecidableEq, Repr

/-- R83: the two payload formats. -/
inductive Fmt where
  | z64
  | acs
  deriving DecidableEq, Repr

/-- 10_state.md R23: the CSRs, in the order of their offsets. -/
inductive Csr where
  | cmd
  | status
  | err
  | errInfo
  | irqEn
  | width
  | pixLen
  | cfg
  | gridW
  | gridH
  | pkLen
  | pkRowlen
  | pkW
  | pkH
  | outLen
  | crcData
  | crcVal
  | crcHex
  | capPix
  | capGrid
  | capPack
  | capOut
  deriving DecidableEq, Repr

/-- 20_memory.md R63: the widths of a host access. -/
inductive Width where
  | byte
  | half
  | word
  deriving DecidableEq, Repr

/-- 30_encoding.md R90, R91: the host's primitive operations LB/LH/LW, SB/SH/SW and WAIT. -/
inductive HostOp where
  | load (n : Width) (addr : Word)
  | store (n : Width) (addr v : Word)
  | wait
  deriving DecidableEq, Repr

/-- What reaches the block from outside, one at a time: a host operation, the platform's reset input (R280), or
loss and return of power (60_exceptions.md R275). -/
inductive Input where
  | host (op : HostOp)
  | hwReset
  | powerOn
  deriving DecidableEq, Repr

end Sys2Proof
end

