-- ==== Sys2Proof/WellFormed.lean ====
section
/-! DEFINITION. The checks on terms: instructions, host operations, capacities. -/

namespace Sys2Proof

/-- R63: the number of bytes of an access. -/
def Width.bytes : Width → Nat
  | .byte => 1
  | .half => 2
  | .word => 4

/-- Every term of `Instr` is well formed: no command carries an immediate or an operand field (R87), and every
32-bit word is a CRC.FEED operand (R88). What is ill formed is a word, and the decoder refuses it (R84, R85). -/
def Instr.wf : Instr → Bool
  | .crcInit | .thresh | .loadGrid | .loadPack | .softReset => true
  | .packN | .packI | .packL | .packB | .packR => true
  | .encZ64 | .encAcs => true
  | .convertZ64N | .convertZ64I | .convertZ64L | .convertZ64B | .convertZ64R => true
  | .convertAcsN | .convertAcsI | .convertAcsL | .convertAcsB | .convertAcsR => true
  | .crcFeed _ => true

/-- R90: the data of a store fits its width. The machine takes the low bytes of a wider value (R62); a program in
the spec's notation writes none. -/
def HostOp.wf : HostOp → Bool
  | .load _ _ => true
  | .store n _ v => decide (v.toNat < 2 ^ (8 * n.bytes))
  | .wait => true

/-- R8: the constraints on the four capacities PIX_BYTES, GRID_BITS, PACK_BYTES and OUT_BYTES. -/
def capsLegal (pix grid pack out : Nat) : Bool :=
  decide (pix % 4 = 0 ∧ 4 ≤ pix ∧ pix ≤ 2 ^ 28) &&
  decide (grid % 32 = 0 ∧ 32 ≤ grid ∧ grid ≤ 2 ^ 31) &&
  decide (pack % 4 = 0 ∧ 4 ≤ pack ∧ pack ≤ 2 ^ 28) &&
  decide (out % 4 = 0 ∧ 12 ≤ out ∧ out ≤ 2 ^ 28)

end Sys2Proof
end

