-- ==== Sys2Proof/Decode.lean ====
section
/-! DEFINITION. The decoder and the encoder (30_encoding.md R80 to R92), the CSR map (10_state.md R23) and the byte
order of a host access (20_memory.md R62).

An instruction reaches the block as a 32-bit host write: a command word to CMD, or a character code to CRC_DATA. -/

namespace Sys2Proof

/-! ## Byte order (R62) -/

/-- R62: the `k`-th byte of a word, byte 0 least significant. -/
def byteOf (v : Word) (k : Nat) : Byte := v.extractLsb' (8 * k) 8

/-- R62: the `n` low bytes of a word, lowest address first. -/
def bytesOf (n : Nat) (v : Word) : List Byte := (List.range n).map (byteOf v)

/-- R62: the sum of the bytes, each shifted to its place; the first byte is least significant. -/
def ofBytes : List Byte → Word
  | [] => 0
  | b :: bs => b.zeroExtend 32 ||| (ofBytes bs <<< 8)

/-! ## The CSR map (R23) -/

/-- R23: a CSR's offset in the CSR page. -/
def Csr.offset : Csr → Word
  | .cmd => 0x000
  | .status => 0x004
  | .err => 0x008
  | .errInfo => 0x00C
  | .irqEn => 0x010
  | .width => 0x014
  | .pixLen => 0x018
  | .cfg => 0x01C
  | .gridW => 0x020
  | .gridH => 0x024
  | .pkLen => 0x028
  | .pkRowlen => 0x02C
  | .pkW => 0x030
  | .pkH => 0x034
  | .outLen => 0x038
  | .crcData => 0x03C
  | .crcVal => 0x040
  | .crcHex => 0x044
  | .capPix => 0x048
  | .capGrid => 0x04C
  | .capPack => 0x050
  | .capOut => 0x054

/-- The CSRs in the order of R23's table. -/
def csrList : List Csr :=
  [.cmd, .status, .err, .errInfo, .irqEn, .width, .pixLen, .cfg, .gridW, .gridH, .pkLen] ++
  [.pkRowlen, .pkW, .pkH, .outLen, .crcData, .crcVal, .crcHex, .capPix, .capGrid, .capPack, .capOut]

/-- R23, R64: the CSR at an offset, none at 0x058 to 0xFFF. -/
def csrAt (a : Word) : Option Csr := csrList.find? fun c => c.offset == a

/-! ## Command words (R80 to R89) -/

/-- R80: bits [7:0]. -/
def opField (wd : Word) : BitVec 8 := wd.extractLsb' 0 8

/-- R80: bits [10:8]. -/
def rotField (wd : Word) : BitVec 3 := wd.extractLsb' 8 3

/-- R80: bit [12]. -/
def fmtField (wd : Word) : Bool := wd.getLsbD 12

/-- R84, R89: bit [11] or one of bits [31:13] is set. -/
def reservedSet (wd : Word) : Bool := wd.getLsbD 11 || wd.extractLsb' 13 19 != 0

/-- Why a word is no instruction. The spec has one outcome for the first four, BadCommand (R89); their names are
the model's (log 13). -/
inductive DecodeError where
  | reservedBit   -- R84: bit [11] or bits [31:13]
  | unusedField   -- R84: ROT or FMT set where the operation does not use it
  | reservedRot   -- R82, R84: ROT is 5, 6 or 7
  | reservedOp    -- R85: OP is not in the table
  | noCommandPort -- the write goes to neither CMD nor CRC_DATA (R88, R92)
  | notOneWord    -- the data is not exactly four bytes (R80)
  deriving DecidableEq, Repr

/-- R84: an operation that uses neither ROT nor FMT. -/
def plainForm (i : Instr) (rot : BitVec 3) (fmt : Bool) : Except DecodeError Instr :=
  if rot = 0 ∧ fmt = false then .ok i else .error .unusedField

/-- R82: PACK with its rotate code. -/
def packForm (rot : BitVec 3) : Except DecodeError Instr :=
  match rot.toNat with
  | 0 => .ok .packN
  | 1 => .ok .packI
  | 2 => .ok .packL
  | 3 => .ok .packB
  | 4 => .ok .packR
  | _ => .error .reservedRot

/-- R82, R83: CONVERT with its rotate code and format. -/
def convertForm (rot : BitVec 3) (fmt : Bool) : Except DecodeError Instr :=
  match rot.toNat, fmt with
  | 0, false => .ok .convertZ64N
  | 1, false => .ok .convertZ64I
  | 2, false => .ok .convertZ64L
  | 3, false => .ok .convertZ64B
  | 4, false => .ok .convertZ64R
  | 0, true => .ok .convertAcsN
  | 1, true => .ok .convertAcsI
  | 2, true => .ok .convertAcsL
  | 3, true => .ok .convertAcsB
  | 4, true => .ok .convertAcsR
  | _, _ => .error .reservedRot

/-- R89: the decoder of a word written to CMD, total on 32-bit words. -/
def decodeCmd (wd : Word) : Except DecodeError Instr :=
  let rot := rotField wd
  let fmt := fmtField wd
  if reservedSet wd then .error .reservedBit
  else match (opField wd).toNat with
    | 0x01 => plainForm .crcInit rot fmt
    | 0x10 => plainForm .thresh rot fmt
    | 0x11 => plainForm .loadGrid rot fmt
    | 0x20 => if fmt then .error .unusedField else packForm rot
    | 0x21 => plainForm .loadPack rot fmt
    | 0x30 => if rot = 0 then .ok (if fmt then .encAcs else .encZ64) else .error .unusedField
    | 0x40 => convertForm rot fmt
    | 0xFF => plainForm .softReset rot fmt
    | _ => .error .reservedOp

/-- R88, R92: the instruction that a 32-bit host write of `v` to offset `off` of the CSR page is. -/
def decodeWrite (off v : Word) : Except DecodeError Instr :=
  if off = Csr.cmd.offset then decodeCmd v
  else if off = Csr.crcData.offset then .ok (.crcFeed v)
  else .error .noCommandPort

/-- The same from the write's data bytes, lowest address first (R62); total on any bytes. -/
def decodeBytes (off : Word) (bs : List Byte) : Except DecodeError Instr :=
  if bs.length = 4 then decodeWrite off (ofBytes bs) else .error .notOneWord

/-! ## The encoder (R92) -/

/-- R92: the word the host writes. -/
def encodeWord : Instr → Word
  | .crcInit => 0x00000001
  | .thresh => 0x00000010
  | .loadGrid => 0x00000011
  | .packN => 0x00000020
  | .packI => 0x00000120
  | .packL => 0x00000220
  | .packB => 0x00000320
  | .packR => 0x00000420
  | .loadPack => 0x00000021
  | .encZ64 => 0x00000030
  | .encAcs => 0x00001030
  | .convertZ64N => 0x00000040
  | .convertZ64I => 0x00000140
  | .convertZ64L => 0x00000240
  | .convertZ64B => 0x00000340
  | .convertZ64R => 0x00000440
  | .convertAcsN => 0x00001040
  | .convertAcsI => 0x00001140
  | .convertAcsL => 0x00001240
  | .convertAcsB => 0x00001340
  | .convertAcsR => 0x00001440
  | .softReset => 0x000000FF
  | .crcFeed v => v

/-- R88, R92: the CSR the host writes it to. -/
def portOf : Instr → Csr
  | .crcFeed _ => .crcData
  | .crcInit | .thresh | .loadGrid | .loadPack | .softReset => .cmd
  | .packN | .packI | .packL | .packB | .packR => .cmd
  | .encZ64 | .encAcs => .cmd
  | .convertZ64N | .convertZ64I | .convertZ64L | .convertZ64B | .convertZ64R => .cmd
  | .convertAcsN | .convertAcsI | .convertAcsL | .convertAcsB | .convertAcsR => .cmd

/-- The words of an instruction: the offset of the port and the word written to it. -/
def encode (i : Instr) : Word × Word := ((portOf i).offset, encodeWord i)

/-- R90, R92: the host operation that issues an instruction. -/
def issueOp (i : Instr) : HostOp := .store .word (portOf i).offset (encodeWord i)

/-! ## Words as spec/opcode_table.json numbers them -/

/-- The table's rows are data words; the row's "target" says which CSR takes them. A word of at most 32 bits that
is one of the 22 command words is that command; every other such word is only an instance of the row CRC.FEED,
whose mask is 0 ("every value of v is this operation"). More than 32 bits give the port as well: bits 31..0 are the
data, the bits above it the offset written to (log 13). -/
def tableWrite (nbits w : Nat) : Word × Word :=
  let v := BitVec.ofNat 32 w
  if 32 < nbits then (BitVec.ofNat 32 (w / 2 ^ 32), v)
  else match decodeCmd v with
    | .ok _ => (Csr.cmd.offset, v)
    | .error _ => (Csr.crcData.offset, v)

/-- The instruction the decoder reads from a table word, laid out as the write's bytes. -/
def decodeTableWord (nbits w : Nat) : Option Instr :=
  let p := tableWrite nbits w
  (decodeBytes p.1 (bytesOf 4 p.2)).toOption

end Sys2Proof
end

