-- ==== Sys2Proof/Machine/State.lean ====
section
/-! DEFINITION. The state of the block and of what a step reads from outside it, as plain data; the reasons a step
can stop; the state after reset (10_state.md R20 to R49, 70_reset_and_hazards.md R280). -/

namespace Sys2Proof.Machine

/-! ## Reasons to stop -/

/-- 20_memory.md R64: why the host bus answers BusError. The spec has one BusError; the names are the model's. -/
inductive BusError where
  | unmapped     -- the address is in no region of R60
  | misaligned   -- the address is no multiple of the width
  | csrWidth     -- the access falls in the CSR page and is not 32 bits wide
  | csrHole      -- no CSR occupies the offset
  | outWrite     -- the access writes OUT
  deriving DecidableEq, Repr

/-- What stops the machine. -/
inductive Fault where
  /-- Raised by `step` for a host load or store that the bus answers with BusError (R64): the host operation faults,
  with no effect on the block. Safe: the block would take further host accesses (log 9). -/
  | busError (why : BusError) (addr : Word)
  deriving DecidableEq, Repr

/-- Why the model gives an instruction no meaning. -/
inductive Refusal where
  /-- Raised by `exec` alone, for an instruction without a meaning yet; no arm of this model does. Safe. -/
  | notModelled (mnemonic : String)
  deriving DecidableEq, Repr

/-! ## Parts of the state -/

/-- 60_exceptions.md R250: the values of ERR.CODE. Codes 0x08 to 0xFF are never written (log 14). -/
inductive ErrCode where
  | none
  | invalidWidth
  | charOutOfRange
  | compressorFailure
  | badCommand
  | badConfig
  | sequence
  | capacity
  deriving DecidableEq, Repr

/-- 40_control.md R108: the stages. CRC.INIT, LOAD.GRID and LOAD.PACK have one step of their own instead. -/
inductive Stage where
  | crcInit
  | loadGrid
  | loadPack
  | thresh
  | pack (o : Orient)
  | enc (f : Fmt)
  deriving DecidableEq, Repr

/-- 10_state.md R48: the sequencer. `cmd` is the accepted command, `stage` the stage in progress, `rest` the stages
after it, and `left` how many host accesses are still made before the stage ends (log 2, log 20). -/
inductive Seq where
  | idle
  | run (cmd : Instr) (stage : Stage) (rest : List Stage) (left : Nat)
  deriving DecidableEq, Repr

/-- A byte buffer (R40, R42, R43): the elements something has written, by index, and the draw that the others read
from. -/
structure ByteBuf where
  cells : List Host.Cell
  epoch : Nat
  deriving DecidableEq, Repr

/-- GRID (R41): the one-bit cells something has written, by index, and the draw that the others read from (log 6). -/
structure BitBuf where
  cells : List (Nat × Bool)
  epoch : Nat
  deriving DecidableEq, Repr

/-- 20_memory.md R60: the four buffers. Element `i` of a buffer is at host address `base + i`. -/
structure Memory where
  pix  : ByteBuf
  grid : BitBuf
  pack : ByteBuf
  out  : ByteBuf
  deriving DecidableEq, Repr

/-- The canonical form of a listing: indices strictly rising. -/
def rising {α : Type} : List (Nat × α) → Bool
  | [] => true
  | [_] => true
  | a :: b :: r => decide (a.1 < b.1) && rising (b :: r)

/-- The canonical form of memory: every listing strictly rising. An unlisted element has no listed value (it reads
as any value, log 6), so no listed one equals what an unlisted one reads as. -/
def Memory.wf (m : Memory) : Bool :=
  rising m.pix.cells && rising m.grid.cells && rising m.pack.cells && rising m.out.cells

/-- The whole state. INVENTORY.md, State, lists each field with its rule. -/
structure State where
  -- STATUS (R24); BUSY and ERR are views
  done      : Bool
  empty     : Bool
  conflict  : Bool
  crcErr    : Bool
  gridValid : Bool
  packValid : Bool
  outValid  : Bool
  -- ERR.CODE (R25), ERR_INFO (R26), IRQ_EN.DONE_IE (R28)
  err       : ErrCode
  errInfo   : Word
  doneIe    : Bool
  -- WIDTH (R29), PIX_LEN (R30), CFG.BLACK and CFG.NOTRIM (R27)
  width     : Word
  pixLen    : Word
  black     : BitVec 7
  notrim    : Bool
  -- GRID_W, GRID_H (R31), the PK_ registers (R32), OUT_LEN (R33)
  gridW     : Word
  gridH     : Word
  pkLen     : Word
  pkRowlen  : Word
  pkW       : Word
  pkH       : Word
  outLen    : Word
  -- crc_acc (R35)
  crcAcc    : Word16
  -- CAP_PIX, CAP_GRID, CAP_PACK, CAP_OUT (R38)
  capPix    : Word
  capGrid   : Word
  capPack   : Word
  capOut    : Word
  -- PIX, GRID, PACK, OUT (R40 to R43) and the sequencer (R48)
  mem       : Memory
  seq       : Seq
  -- outside the block: what is still to come (log 1), the data of the host's last read (log 10)
  inputs    : List Input
  rdata     : Word
  -- the model's own: times fixed from outside, stages started (log 2), values drawn (log 3)
  stalls    : List Nat
  started   : Nat
  draws     : Nat
  deriving DecidableEq, Repr

/-- The state at power-on (R280, R281): every CSR at its reset value, `seq` idle, the four buffers any value, the
host's program not yet there (log 1, log 3, log 7). -/
def State.reset : State where
  done := false
  empty := false
  conflict := false
  crcErr := false
  gridValid := false
  packValid := false
  outValid := false
  err := .none
  errInfo := 0
  doneIe := false
  width := 0
  pixLen := 0
  black := 50
  notrim := false
  gridW := 0
  gridH := 0
  pkLen := 0
  pkRowlen := 0
  pkW := 0
  pkH := 0
  outLen := 0
  crcAcc := 0
  capPix := BitVec.ofNat 32 Config.pixBytes
  capGrid := BitVec.ofNat 32 Config.gridBits
  capPack := BitVec.ofNat 32 Config.packBytes
  capOut := BitVec.ofNat 32 Config.outBytes
  mem := ⟨⟨[], 0⟩, ⟨[], 1⟩, ⟨[], 2⟩, ⟨[], 3⟩⟩
  seq := .idle
  inputs := []
  rdata := 0
  stalls := []
  started := 0
  draws := 4

end Sys2Proof.Machine
end

