-- ==== Sys2Proof/Machine/Ops.lean ====
section
/-! DEFINITION. The named operations over buffers and registers: reading and writing elements, drawing a buffer's
contents anew, the error report that takes the place of an exception (60_exceptions.md R258), the two resets
(70_reset_and_hazards.md R280). -/

namespace Sys2Proof.Machine

/-! ## Listings in canonical form -/

/-- The value listed at index `i`. -/
def lookupCell {α : Type} (i : Nat) : List (Nat × α) → Option α
  | [] => none
  | (j, v) :: r => if i = j then some v else lookupCell i r

/-- List the value `v` at index `i`, in place of what was listed there; keeps the listing rising. -/
def insertCell {α : Type} (i : Nat) (v : α) : List (Nat × α) → List (Nat × α)
  | [] => [(i, v)]
  | (j, w) :: r =>
    if i < j then (i, v) :: (j, w) :: r
    else if i = j then (i, v) :: r
    else (j, w) :: insertCell i v r

/-- The values of a list at the indices `i`, `i + 1`, … -/
def numberFrom {α : Type} (i : Nat) : List α → List (Nat × α)
  | [] => []
  | v :: r => (i, v) :: numberFrom (i + 1) r

/-! ## Buffer elements (00_scope.md R13) -/

/-- R13: the block's read of element `i`; an unlisted element holds any value, drawn once (R44, U1). -/
def ByteBuf.read (b : ByteBuf) (i : Nat) : Byte := (lookupCell i b.cells).getD (Config.anyByte b.epoch i)

/-- R13: a write of element `i`. -/
def ByteBuf.write (b : ByteBuf) (i : Nat) (v : Byte) : ByteBuf := { b with cells := insertCell i v b.cells }

/-- R62: writes of consecutive elements, the first at the lowest index. -/
def ByteBuf.writeAll (b : ByteBuf) (i : Nat) : List Byte → ByteBuf
  | [] => b
  | v :: r => ByteBuf.writeAll (b.write i v) (i + 1) r

/-- R13: GRIDBIT(i). -/
def BitBuf.read (b : BitBuf) (i : Nat) : Bool := (lookupCell i b.cells).getD (Config.anyBit b.epoch i)

/-- R13: the write of GRIDBIT(i). -/
def BitBuf.write (b : BitBuf) (i : Nat) (v : Bool) : BitBuf := { b with cells := insertCell i v b.cells }

/-- Writes of consecutive cells, the first at the lowest index. -/
def BitBuf.writeAll (b : BitBuf) (i : Nat) : List Bool → BitBuf
  | [] => b
  | v :: r => BitBuf.writeAll (b.write i v) (i + 1) r

/-- R10, R181: the byte whose bit `7 - j` is `f j`. -/
def byteOfBits (f : Nat → Bool) : Byte :=
  (List.range 8).foldl (fun b j => if f j then b ||| (1#8 <<< (7 - j)) else b) 0

/-- R10: the bits of a byte, bit 7 first. -/
def bitsOfByte (v : Byte) : List Bool := (List.range 8).map fun j => v.getLsbD (7 - j)

/-- R41: byte `k` of GRID on the host bus; cell `i` is bit `7 - (i mod 8)` of byte `i div 8`. -/
def BitBuf.readByte (b : BitBuf) (k : Nat) : Byte := byteOfBits fun j => b.read (8 * k + j)

/-- R41, R62: host bytes written to GRID, the first at byte index `k`. -/
def BitBuf.writeBytes (b : BitBuf) (k : Nat) (vs : List Byte) : BitBuf :=
  b.writeAll (8 * k) (vs.flatMap bitsOfByte)

/-! ## Buffers of the state -/

def State.setPix (b : ByteBuf) (s : State) : State := { s with mem := { s.mem with pix := b } }
def State.setGrid (b : BitBuf) (s : State) : State := { s with mem := { s.mem with grid := b } }
def State.setPack (b : ByteBuf) (s : State) : State := { s with mem := { s.mem with pack := b } }
def State.setOut (b : ByteBuf) (s : State) : State := { s with mem := { s.mem with out := b } }

/-- PIX holds any value from here on (U1). -/
def State.redrawPix (s : State) : State :=
  { s with mem := { s.mem with pix := ⟨[], s.draws⟩ }, draws := s.draws + 1 }

/-- GRID holds these cells from index 0 on, and any value beyond them (U6); with none, any value (U3, U4). -/
def State.fillGrid (bits : List Bool) (s : State) : State :=
  { s with mem := { s.mem with grid := ⟨numberFrom 0 bits, s.draws⟩ }, draws := s.draws + 1 }

/-- PACK holds these bytes from index 0 on, and any value beyond them (U7); with none, any value (U3, U4). -/
def State.fillPack (bytes : List Byte) (s : State) : State :=
  { s with mem := { s.mem with pack := ⟨numberFrom 0 bytes, s.draws⟩ }, draws := s.draws + 1 }

/-- OUT holds these bytes from index 0 on, and any value beyond them (U8); with none, any value (U3, U4). -/
def State.fillOut (bytes : List Byte) (s : State) : State :=
  { s with mem := { s.mem with out := ⟨numberFrom 0 bytes, s.draws⟩ }, draws := s.draws + 1 }

/-! ## The command frame's registers (40_control.md R100 to R106) -/

/-- R100: a CMD write that is not dropped clears DONE, ERR and ERR_INFO first. -/
def State.clearReport (s : State) : State := { s with done := false, err := .none, errInfo := 0 }

/-- R258: what the block does in place of taking an exception: the error is recorded and nothing else is saved or
changed. Rejects, aborts and CRC.FEED errors all record it here. -/
def State.report (code : ErrCode) (info : Word) (s : State) : State := { s with err := code, errInfo := info }

/-- R103: `raise Reject(code, info)`. -/
def State.reject (code : ErrCode) (info : Word) (s : State) : State := { s.report code info with done := true }

/-- R105: completion of an accepted command, as one event. There is no return from an error (R261). -/
def State.complete (s : State) : State := { s with seq := .idle, done := true }

/-- R106: a host write dropped because BUSY = 1. -/
def State.dropWrite (s : State) : State := { s with conflict := true }

/-- R48: STATUS.BUSY, 1 exactly when `seq` is not IDLE. -/
def State.busy (s : State) : Bool :=
  match s.seq with
  | .idle => false
  | .run _ _ _ _ => true

/-! ## Destinations (40_control.md R102, R108) -/

/-- R108, R110: the stages of a command, in order; none for SOFT.RESET and CRC.FEED, which never run. -/
def stagesOf : Instr → List Stage
  | .crcInit => [.crcInit]
  | .thresh => [.thresh]
  | .loadGrid => [.loadGrid]
  | .packN => [.pack .normal]
  | .packI => [.pack .invert]
  | .packL => [.pack .rotateLeft]
  | .packB => [.pack .rotateLeft]
  | .packR => [.pack .rotateRight]
  | .loadPack => [.loadPack]
  | .encZ64 => [.enc .z64]
  | .encAcs => [.enc .acs]
  | .convertZ64N => [.thresh, .pack .normal, .enc .z64]
  | .convertZ64I => [.thresh, .pack .invert, .enc .z64]
  | .convertZ64L => [.thresh, .pack .rotateLeft, .enc .z64]
  | .convertZ64B => [.thresh, .pack .rotateLeft, .enc .z64]
  | .convertZ64R => [.thresh, .pack .rotateRight, .enc .z64]
  | .convertAcsN => [.thresh, .pack .normal, .enc .acs]
  | .convertAcsI => [.thresh, .pack .invert, .enc .acs]
  | .convertAcsL => [.thresh, .pack .rotateLeft, .enc .acs]
  | .convertAcsB => [.thresh, .pack .rotateLeft, .enc .acs]
  | .convertAcsR => [.thresh, .pack .rotateRight, .enc .acs]
  | .softReset => []
  | .crcFeed _ => []

/-- R102: the stage writes GRID and its descriptors. -/
def Stage.toGrid : Stage → Bool
  | .thresh => true
  | .crcInit | .loadGrid | .loadPack | .pack _ | .enc _ => false

/-- R102: the stage writes PACK and its descriptors. -/
def Stage.toPack : Stage → Bool
  | .pack _ => true
  | .crcInit | .loadGrid | .loadPack | .thresh | .enc _ => false

/-- R102: the stage writes OUT and OUT_LEN. -/
def Stage.toOut : Stage → Bool
  | .enc _ => true
  | .crcInit | .loadGrid | .loadPack | .thresh | .pack _ => false

/-- R102, R107: GRID is part of the running command's destination. -/
def State.gridOpen (s : State) : Bool :=
  match s.seq with
  | .idle => false
  | .run cmd _ _ _ => (stagesOf cmd).any Stage.toGrid

/-- R102, R107: PACK is part of the running command's destination. -/
def State.packOpen (s : State) : Bool :=
  match s.seq with
  | .idle => false
  | .run cmd _ _ _ => (stagesOf cmd).any Stage.toPack

/-- R102, R107: OUT is part of the running command's destination. -/
def State.outOpen (s : State) : Bool :=
  match s.seq with
  | .idle => false
  | .run cmd _ _ _ => (stagesOf cmd).any Stage.toOut

/-! ## Reset (70_reset_and_hazards.md R280, R281) -/

/-- R112, R281: the destination buffers of the command a reset ends hold any value. -/
def State.endCommand (s : State) : State :=
  let s1 := if s.gridOpen then s.fillGrid [] else s
  let s2 := if s.packOpen then s1.fillPack [] else s1
  if s.outOpen then s2.fillOut [] else s2

/-- R280: every CSR and `seq` at its reset value; CAP_ registers are constants (R38), and the buffers (R281) and
what stands outside the block are not touched. -/
def State.resetRegs (s : State) : State :=
  { State.reset with
    capPix := s.capPix, capGrid := s.capGrid, capPack := s.capPack, capOut := s.capOut
    mem := s.mem, inputs := s.inputs, rdata := s.rdata
    stalls := s.stalls, started := s.started, draws := s.draws }

/-- R112, R280: SOFT.RESET and the platform's reset input have the same effect on the block (log 16). -/
def State.resetBlock (s : State) : State := s.endCommand.resetRegs

/-- R275, R281: loss and return of power is a reset after which all four buffers hold any value (log 16). -/
def State.powerCycle (s : State) : State := (((s.redrawPix.fillGrid []).fillPack []).fillOut []).resetRegs

end Sys2Proof.Machine
end

