-- ==== Sys2Proof/Machine/Flags.lean ====
section
/-! DEFINITION. The flag and register views: STATUS and its write-1-to-clear bits, ERR, IRQ_EN, CFG, the interrupt
line (10_state.md R24 to R28, 60_exceptions.md R250, R262). -/

namespace Sys2Proof.Machine

/-- R250: the code in ERR. -/
def ErrCode.code : ErrCode → Word
  | .none => 0x00
  | .invalidWidth => 0x01
  | .charOutOfRange => 0x02
  | .compressorFailure => 0x03
  | .badCommand => 0x04
  | .badConfig => 0x05
  | .sequence => 0x06
  | .capacity => 0x07

/-- R24: STATUS.ERR = (ERR.CODE is not 0), at every instant. -/
def State.errFlag (s : State) : Bool := s.err.code != 0

/-- A flag at bit `k` of a register. -/
def flagAt (k : Nat) (b : Bool) : Word := if b then 1#32 <<< k else 0

/-- R24: STATUS as the host reads it; every bit not listed reads 0. -/
def State.statusWord (s : State) : Word :=
  flagAt 0 s.busy ||| flagAt 1 s.done ||| flagAt 2 s.errFlag ||| flagAt 3 s.empty ||| flagAt 4 s.conflict |||
  flagAt 5 s.crcErr ||| flagAt 8 s.gridValid ||| flagAt 9 s.packValid ||| flagAt 10 s.outValid

/-- R24: a write to STATUS clears DONE and CONFLICT where the written bit is 1, and changes nothing else. -/
def State.writeStatus (v : Word) (s : State) : State :=
  { s with done := s.done && !v.getLsbD 1, conflict := s.conflict && !v.getLsbD 4 }

/-- R28: IRQ_EN as the host reads it. -/
def State.irqEnWord (s : State) : Word := flagAt 0 s.doneIe

/-- R28: a write to IRQ_EN stores bit 0. -/
def State.writeIrqEn (v : Word) (s : State) : State := { s with doneIe := v.getLsbD 0 }

/-- R27: CFG as the host reads it. -/
def State.cfgWord (s : State) : Word := s.black.zeroExtend 32 ||| flagAt 8 s.notrim

/-- R27: a write to CFG stores bits [6:0] and bit [8]. -/
def State.writeCfg (v : Word) (s : State) : State :=
  { s with black := v.extractLsb' 0 7, notrim := v.getLsbD 8 }

/-- R262: irq = STATUS.DONE and IRQ_EN.DONE_IE, at every instant. -/
def State.irq (s : State) : Bool := s.done && s.doneIe

end Sys2Proof.Machine
end

