-- ==== Sys2Proof/Machine/Operands.lean ====
section
/-! DEFINITION. The operands of the commands (30_encoding.md R87): every register field read as the number the
rules take it for, and the block's reads of its buffers. -/

namespace Sys2Proof.Machine

/-- R11: ceil8(n) = (n + 7) div 8. -/
def ceil8 (n : Nat) : Nat := (n + 7) / 8

/-- R29: W = signed32(WIDTH). -/
def State.imageWidth (s : State) : Int := s.width.toInt

/-- R150: W as a count of pixels, used where W > 0. -/
def State.columns (s : State) : Nat := s.imageWidth.toNat

/-- R152: H = L div (4 * W), exact. -/
def State.rows (s : State) : Nat := s.pixLen.toNat / (4 * s.columns)

/-- R40, R153: the four bytes of a pixel. -/
structure Pixel where
  r : Byte
  g : Byte
  b : Byte
  a : Byte
  deriving DecidableEq, Repr

/-- R40: pixel (x, y) is the four bytes at p = 4 * (y * W + x). -/
def State.pixel (s : State) (x y : Nat) : Pixel :=
  let p := 4 * (y * s.columns + x)
  ⟨s.mem.pix.read p, s.mem.pix.read (p + 1), s.mem.pix.read (p + 2), s.mem.pix.read (p + 3)⟩

/-- R41: G(x, y) is cell y * w + x of GRID. -/
def State.cell (s : State) (x y : Nat) : Bool := s.mem.grid.read (y * s.gridW.toNat + x)

/-- R210, R230: PACK[0 .. n-1] with n = PK_LEN. -/
def State.packed (s : State) : List Byte := (List.range s.pkLen.toNat).map s.mem.pack.read

end Sys2Proof.Machine
end

