-- ==== Sys2Proof/Machine/Crc.lean ====
section
/-! DEFINITION. The checksum unit (41_crc16.md): its table, its step, its hex rendering. -/

namespace Sys2Proof.Machine

/-- R131: one of the eight iterations that build a table entry. -/
def crcBit (c : Word) : Word := if c.getLsbD 0 then 0xEDB88320 ^^^ (c >>> 1) else c >>> 1

/-- R131: entry `i` of the table T (CRCROM). -/
def crcTable (i : Byte) : Word :=
  crcBit (crcBit (crcBit (crcBit (crcBit (crcBit (crcBit (crcBit (i.zeroExtend 32))))))))

/-- R133: CRCSTEP16. -/
def crcStep (acc : Word16) (c : Byte) : Word16 :=
  let j : Byte := c ^^^ acc.extractLsb' 8 8
  (crcTable j).extractLsb' 0 16 ^^^ (acc <<< 8)

/-- R133: CRC16 of a sequence of codes in 0..255. -/
def crc16 (codes : List Byte) : Word16 := codes.foldl crcStep 0

/-- R133: CRC16 of any codes; `none` is OutOfRange. -/
def crc16Of (codes : List Nat) : Option Word16 :=
  if codes.all fun c => decide (c ≤ 255) then some (crc16 (codes.map (BitVec.ofNat 8))) else none

/-- R132: one step of the source's loop on its 32-bit accumulator. -/
def crc32Step (crc : Word) (c : Byte) : Word := crcTable (c ^^^ crc.extractLsb' 8 8) ^^^ (crc <<< 8)

/-- R132: the source's loop from the accumulator `crc` on; `none` is OutOfRange, at the first code above 255. -/
def crc32Loop (crc : Word) : List Nat → Option Word
  | [] => some crc
  | c :: r => if c > 255 then none else crc32Loop (crc32Step crc (BitVec.ofNat 8 c)) r

/-- R132: CRC32REF. -/
def crc32Ref (codes : List Nat) : Option Word16 := (crc32Loop 0 codes).map fun crc => crc.extractLsb' 0 16

/-- R12, R46: one lowercase hexadecimal digit. -/
def hexDigit (n : Nat) : Byte := if n < 10 then BitVec.ofNat 8 (0x30 + n) else BitVec.ofNat 8 (0x61 + (n - 10))

/-- R12, R46: hex2, the entry of HEXROM. -/
def hex2 (b : Byte) : List Byte := [hexDigit (b.toNat / 16), hexDigit (b.toNat % 16)]

/-- R12, R133: hex4. -/
def hex4 (v : Word16) : List Byte := hex2 (v.extractLsb' 8 8) ++ hex2 (v.extractLsb' 0 8)

/-- R37: CRC_HEX, the first digit in bits [7:0]. -/
def State.crcHexWord (s : State) : Word := ofBytes (hex4 s.crcAcc)

/-- R130: the effect of CRC.INIT. -/
def crcInitStage (s : State) : State := { s with crcAcc := 0, crcErr := false }

/-- R134, R135: the effect of CRC.FEED on an idle block. -/
def crcFeedIdle (v : Word) (s : State) : State :=
  if s.crcErr then s
  else if v.toNat > 255 then { s.report .charOutOfRange v with crcErr := true }
  else { s with crcAcc := crcStep s.crcAcc (v.extractLsb' 0 8) }

end Sys2Proof.Machine
end

