-- ==== Sys2Proof/Machine/Stage.lean ====
section
/-! DEFINITION. How a stage ends (40_control.md R104, R109), and the two stages that only check. -/

namespace Sys2Proof.Machine

/-- R109: a stage succeeds, its result written as one event; or R104: it aborts with a code and its detail. -/
inductive StageEnd where
  | ok (s : State)
  | abort (code : ErrCode) (info : Word) (s : State)
  deriving DecidableEq, Repr

/-- R104: the THRESH stage aborts: GRID any value, GRID_VALID 0, the descriptors kept. -/
def abortGrid (code : ErrCode) (info : Word) (s : State) : StageEnd :=
  .abort code info { s.fillGrid [] with gridValid := false }

/-- R104: the PACK stage aborts: PACK any value, PACK_VALID 0, the descriptors kept. -/
def abortPack (code : ErrCode) (info : Word) (s : State) : StageEnd :=
  .abort code info { s.fillPack [] with packValid := false }

/-- R104: the ENC stage aborts: OUT any value, OUT_VALID 0, OUT_LEN kept. -/
def abortOut (code : ErrCode) (info : Word) (s : State) : StageEnd :=
  .abort code info { s.fillOut [] with outValid := false }

/-- R216, R234: the end of both ENC stages: the payload is written to OUT if it fits. -/
def writePayload (p : List Byte) (s : State) : StageEnd :=
  if p.length > s.capOut.toNat then abortOut .capacity 4 s
  else .ok { s.fillOut p with outLen := BitVec.ofNat 32 p.length, outValid := true }

end Sys2Proof.Machine
end

