-- ==== Sys2Proof/Machine/Encode.lean ====
section
/-! DEFINITION. The two payload encoders: deflate, base64 and checksum (44_z64.md R210 to R216), and the hex
run-length text (45_acs.md R230 to R234). Characters are ASCII bytes (00_scope.md R12). -/

namespace Sys2Proof.Machine

/-- R12: ord of an ASCII character. -/
def ord (c : Char) : Byte := BitVec.ofNat 8 c.toNat

/-! ## Z64 -/

/-- R213: ALPHA[n] for n below 64. -/
def base64Char (n : Nat) : Byte :=
  if n < 26 then BitVec.ofNat 8 (0x41 + n)
  else if n < 52 then BitVec.ofNat 8 (0x61 + (n - 26))
  else if n < 62 then BitVec.ofNat 8 (0x30 + (n - 52))
  else if n = 62 then ord '+' else ord '/'

/-- R213: one group: the 24 bits of three bytes as four characters, of which the first `k + 1` stand and the others
are '='. -/
def base64Group (b0 b1 b2 : Byte) (k : Nat) : List Byte :=
  let v := b0.toNat * 65536 + b1.toNat * 256 + b2.toNat
  [base64Char (v / 262144 % 64), base64Char (v / 4096 % 64),
   if k ≥ 2 then base64Char (v / 64 % 64) else ord '=', if k = 3 then base64Char (v % 64) else ord '=']

/-- R213: B64. -/
def base64 : List Byte → List Byte
  | [] => []
  | [b0] => base64Group b0 0 0 1
  | [b0, b1] => base64Group b0 b1 0 2
  | b0 :: b1 :: b2 :: r => base64Group b0 b1 b2 3 ++ base64 r

/-- R214: the tag. -/
def z64Tag : List Byte := [':', 'Z', '6', '4', ':'].map ord

/-- R214, R215: Z64PAYLOAD; the checksum covers the base64 text alone. -/
def z64Payload (b : List Byte) : List Byte := z64Tag ++ b ++ [ord ':'] ++ hex4 (crc16 b)

/-- R216: what the ENC.Z64 stage does first. -/
def z64Start (s : State) : State := { s with crcErr := false, crcAcc := 0 }

/-- R216: the rest of the ENC.Z64 stage, from what the compressor returned. -/
def z64Finish (r : Option (List Byte)) (s : State) : StageEnd :=
  match r with
  | none => abortOut .compressorFailure 0 s
  | some d =>
    match writePayload (z64Payload (base64 d)) s with
    | .ok s1 => .ok { s1 with crcAcc := crc16 (base64 d) }
    | .abort code info s1 => .abort code info s1

/-- R211, R216: the ENC.Z64 stage, after its start; DEFLATE is called once, on PACK[0 .. n-1]. -/
def z64Stage (s : State) : StageEnd := z64Finish (Config.deflate s.packed) s

/-! ## ACS -/

/-- R231: the packed bytes as hex digits. -/
def hexText (bs : List Byte) : List Byte := bs.flatMap hex2

/-- R232: the maximal runs of a text, left to right. -/
def runsOf : List Byte → List (Byte × Nat)
  | [] => []
  | d :: ds =>
    match runsOf ds with
    | [] => [(d, 1)]
    | (e, n) :: rs => if d = e then (e, n + 1) :: rs else (d, 1) :: (e, n) :: rs

/-- R47: ACS_TENS = "_ghijklmnopqrstuvwxy". -/
def acsTens : List Byte :=
  ['_', 'g', 'h', 'i', 'j', 'k', 'l', 'm', 'n', 'o', 'p', 'q', 'r', 's', 't', 'u', 'v', 'w', 'x', 'y'].map ord

/-- R47: ACS_UNITS = "_GHIJKLMNOPQRSTUVWXY". -/
def acsUnits : List Byte :=
  ['_', 'G', 'H', 'I', 'J', 'K', 'L', 'M', 'N', 'O', 'P', 'Q', 'R', 'S', 'T', 'U', 'V', 'W', 'X', 'Y'].map ord

/-- R233: ACSCOUNT. -/
def acsCount (len : Nat) : List Byte :=
  List.replicate (len / 400) (ord 'z') ++
    (if len % 400 ≥ 20 then [acsTens.getD (len % 400 / 20) 0] else []) ++
    (if len % 400 % 20 > 0 then [acsUnits.getD (len % 400 % 20) 0] else [])

/-- R232, R234: one run of the text. -/
def acsRun (r : Byte × Nat) : List Byte :=
  if r.2 ≥ 3 then acsCount r.2 ++ [r.1] else List.replicate r.2 r.1

/-- R231 to R234: the ACS payload of a byte sequence. -/
def acsPayload (bs : List Byte) : List Byte := (runsOf (hexText bs)).flatMap acsRun

/-- R234: the ENC.ACS stage. -/
def acsStage (s : State) : StageEnd := writePayload (acsPayload s.packed) s

/-! ## Acceptance -/

/-- R210, R230: ENC's acceptance check. -/
def encCheck (s : State) : Option (ErrCode × Word) :=
  if s.packValid = false then some (.sequence, 2) else none

end Sys2Proof.Machine
end

