-- ==== Sys2Proof/Machine/Pack.lean ====
section
/-! DEFINITION. The orientation packer (43_pack.md R180 to R187) and the LOAD.PACK check (R190). -/

namespace Sys2Proof.Machine

/-- R182 to R186: the output dimensions (W', H') of a `w` by `h` grid. -/
def outDims : Orient → Nat → Nat → Nat × Nat
  | .normal, w, h => (w, h)
  | .invert, w, h => (w, h)
  | .rotateLeft, w, h => (h, w)
  | .rotateRight, w, h => (h, w)

/-- R182 to R186: the output cell O(r, c), read from the input grid G(x, y) of width `w` and height `h`. -/
def outCell (o : Orient) (w h : Nat) (g : Nat → Nat → Bool) (r c : Nat) : Bool :=
  match o with
  | .normal => g c r
  | .invert => g (w - 1 - c) (h - 1 - r)
  | .rotateLeft => g (w - 1 - r) c
  | .rotateRight => g r (h - 1 - c)

/-- R181: byte `k` of packed row `r` of an output `w'` columns wide. -/
def packByte (w' : Nat) (o : Nat → Nat → Bool) (r k : Nat) : Byte :=
  byteOfBits fun j => decide (8 * k + j < w') && o r (8 * k + j)

/-- R181: the packed bytes, row after row, each row ceil8(w') bytes. -/
def packBytes (w' h' : Nat) (o : Nat → Nat → Bool) : List Byte :=
  (List.range h').flatMap fun r => (List.range (ceil8 w')).map fun k => packByte w' o r k

/-- R180: (W', H') of the grid in GRID. -/
def State.outDims (o : Orient) (s : State) : Nat × Nat :=
  Sys2Proof.Machine.outDims o s.gridW.toNat s.gridH.toNat

/-- R180: ceil8(W') * H' > PACK_BYTES, exact. -/
def State.packTooBig (o : Orient) (s : State) : Bool :=
  decide (ceil8 (s.outDims o).1 * (s.outDims o).2 > s.capPack.toNat)

/-- R187: the bytes the PACK stage writes. -/
def State.packResult (o : Orient) (s : State) : List Byte :=
  packBytes (s.outDims o).1 (s.outDims o).2 (outCell o s.gridW.toNat s.gridH.toNat s.cell)

/-- R110, R187: the PACK stage. Its size check has passed already where PACK is a command of its own. -/
def packStage (o : Orient) (s : State) : StageEnd :=
  let d := s.outDims o
  if s.packTooBig o then abortPack .capacity 3 s
  else .ok { s.fillPack (s.packResult o) with
    pkLen := BitVec.ofNat 32 (ceil8 d.1 * d.2), pkRowlen := BitVec.ofNat 32 (ceil8 d.1)
    pkW := BitVec.ofNat 32 d.1, pkH := BitVec.ofNat 32 d.2, packValid := true }

/-- R180: PACK's acceptance checks, in order. -/
def packCheck (o : Orient) (s : State) : Option (ErrCode × Word) :=
  if s.gridValid = false then some (.sequence, 1)
  else if s.packTooBig o then some (.capacity, 3)
  else none

/-- R190: LOAD.PACK's acceptance checks, in order; the arithmetic is exact. -/
def loadPackCheck (s : State) : Option (ErrCode × Word) :=
  if s.pkRowlen.toNat ≠ ceil8 s.pkW.toNat ∨ s.pkLen.toNat ≠ s.pkRowlen.toNat * s.pkH.toNat then
    some (.badConfig, 2)
  else if s.pkLen.toNat > s.capPack.toNat then some (.capacity, 3)
  else none

/-- R190: the effect of LOAD.PACK. -/
def loadPackStage (s : State) : State := { s with packValid := true }

end Sys2Proof.Machine
end

