-- ==== Sys2Proof/Machine/Thresh.lean ====
section
/-! DEFINITION. The thresholder and trimmer (42_threshold.md R150 to R158) and the LOAD.GRID check (R160). -/

namespace Sys2Proof.Machine

/-- R154: the exact integer ink test. -/
def ink (p : Pixel) (percent : Nat) : Bool :=
  decide ((30 * p.r.toNat + 59 * p.g.toNat + 11 * p.b.toNat) * p.a.toNat + 76500 * (255 - p.a.toNat)
    ≤ 65025 * percent)

/-- R153, R155: pixel (x, y) of the image is ink. -/
def State.inkAt (s : State) (x y : Nat) : Bool := ink (s.pixel x y) s.black.toNat

/-- A window of the image: its top left corner, width and height. -/
structure Window where
  x0 : Nat
  y0 : Nat
  w  : Nat
  h  : Nat
  deriving DecidableEq, Repr

/-- The least index below `n` that satisfies `p`. -/
def firstIn (n : Nat) (p : Nat → Bool) : Option Nat := (List.range n).find? p

/-- The greatest index below `n` that satisfies `p`. -/
def lastIn (n : Nat) (p : Nat → Bool) : Option Nat := (List.range n).reverse.find? p

/-- Row `y` of a `w` columns wide image holds ink. -/
def rowInk (w : Nat) (f : Nat → Nat → Bool) (y : Nat) : Bool := (List.range w).any fun x => f x y

/-- Column `x` of an `h` rows high image holds ink. -/
def colInk (h : Nat) (f : Nat → Nat → Bool) (x : Nat) : Bool := (List.range h).any fun y => f x y

/-- R156: the bounding box of the ink of a `w` by `h` image; none if there is no ink. -/
def boundingBox (w h : Nat) (f : Nat → Nat → Bool) : Option Window :=
  match firstIn h (rowInk w f), lastIn h (rowInk w f) with
  | some y0, some y1 =>
    match firstIn w (colInk h f), lastIn w (colInk h f) with
    | some x0, some x1 => some ⟨x0, y0, x1 - x0 + 1, y1 - y0 + 1⟩
    | _, _ => none
  | _, _ => none

/-- R155, R156: the window of the image that the grid holds; 0 by 0 where a trim finds no ink. -/
def State.window (s : State) : Window :=
  if s.notrim then ⟨0, 0, s.columns, s.rows⟩
  else (boundingBox s.columns s.rows s.inkAt).getD ⟨0, 0, 0, 0⟩

/-- R156: trim requested and no ink found. -/
def State.noInk (s : State) : Bool :=
  !s.notrim && (boundingBox s.columns s.rows s.inkAt).isNone

/-- R155, R156: the cells of a window, row by row. -/
def windowCells (v : Window) (f : Nat → Nat → Bool) : List Bool :=
  (List.range v.h).flatMap fun y => (List.range v.w).map fun x => f (v.x0 + x) (v.y0 + y)

/-- R152: what the THRESH stage does first. -/
def threshStart (s : State) : State := { s with empty := false }

/-- R157: the THRESH stage, after its start. -/
def threshStage (s : State) : StageEnd :=
  let v := s.window
  let s1 := { s with empty := s.empty || s.noInk }
  if v.w * v.h > s.capGrid.toNat then abortGrid .capacity 2 s1
  else .ok { s1.fillGrid (windowCells v s.inkAt) with
    gridW := BitVec.ofNat 32 v.w, gridH := BitVec.ofNat 32 v.h, gridValid := true }

/-- R151: THRESH's and CONVERT's acceptance checks, in order. -/
def threshCheck (s : State) : Option (ErrCode × Word) :=
  if s.imageWidth ≤ 0 then some (.invalidWidth, s.width)
  else if s.black.toNat < 1 ∨ s.black.toNat > 99 then some (.badConfig, 1)
  else if s.pixLen.toNat > s.capPix.toNat then some (.capacity, 1)
  else none

/-- R160: LOAD.GRID's acceptance check; the product is exact. -/
def loadGridCheck (s : State) : Option (ErrCode × Word) :=
  if s.gridW.toNat * s.gridH.toNat > s.capGrid.toNat then some (.capacity, 2) else none

/-- R160: the effect of LOAD.GRID. -/
def loadGridStage (s : State) : State := { s with gridValid := true }

end Sys2Proof.Machine
end

