-- ==== Sys2Proof/Machine/Sequencer.lean ====
section
/-! DEFINITION. The sequencer: how a command is taken, checked, started, run stage by stage and completed
(40_control.md R100 to R111), and how long a stage takes (70_reset_and_hazards.md R291). -/

namespace Sys2Proof.Machine

/-- The effects a stage has at its start: R152 for THRESH, R216 for ENC.Z64; all others come at its end (log 12). -/
def stageStart (st : Stage) (s : State) : State :=
  match st with
  | .thresh => threshStart s
  | .enc .z64 => z64Start s
  | .enc .acs | .crcInit | .loadGrid | .loadPack | .pack _ => s

/-- R108: a stage, after its start, from its operands to its end. -/
def runStage (st : Stage) (s : State) : StageEnd :=
  match st with
  | .crcInit => .ok (crcInitStage s)
  | .loadGrid => .ok (loadGridStage s)
  | .loadPack => .ok (loadPackStage s)
  | .thresh => threshStage s
  | .pack o => packStage o s
  | .enc .z64 => z64Stage s
  | .enc .acs => acsStage s

/-- U10: how many host accesses fall inside the next stage to start: what the environment has fixed, else any
number (log 2). -/
def State.nextStall (s : State) : Nat :=
  match s.stalls with
  | d :: _ => d
  | [] => Config.duration s.started

/-- R48, R100: `seq <- RUN(cmd, stage)`, and the effects the stage has at its start. -/
def State.enter (cmd : Instr) (st : Stage) (rest : List Stage) (s : State) : State :=
  { stageStart st s with
    seq := .run cmd st rest s.nextStall, stalls := s.stalls.tail, started := s.started + 1 }

/-- R104, R105, R108: end the stage in progress; go on with the stages after it as long as they take no time. -/
def runStages (cmd : Instr) (st : Stage) (rest : List Stage) (s : State) : State :=
  match runStage st s with
  | .abort code info s1 => (s1.report code info).complete
  | .ok s1 =>
    match rest with
    | [] => s1.complete
    | st' :: rest' =>
      if s1.nextStall = 0 then runStages cmd st' rest' (s1.enter cmd st' rest') else s1.enter cmd st' rest'
termination_by structural rest

/-- R101: a command is accepted: its first stage starts, and ends at once if it takes no time. -/
def State.accept (cmd : Instr) (st : Stage) (rest : List Stage) (s : State) : State :=
  if s.nextStall = 0 then runStages cmd st rest (s.enter cmd st rest) else s.enter cmd st rest

/-- R100: the frame every command but SOFT.RESET runs in. -/
def issue (cmd : Instr) (check : State → Option (ErrCode × Word)) (s : State) : State :=
  if s.busy then s.dropWrite
  else
    let s1 := s.clearReport
    match check s1 with
    | some (code, info) => s1.reject code info
    | none =>
      match stagesOf cmd with
      | [] => s1
      | st :: rest => s1.accept cmd st rest

/-- R100, R103: a CMD write whose word does not decode. -/
def badCommand (wd : Word) (s : State) : State :=
  if s.busy then s.dropWrite else s.clearReport.reject .badCommand wd

/-- The sequencer's own step: the stage in progress ends. -/
def finishStage (s : State) : State :=
  match s.seq with
  | .idle => s
  | .run cmd st rest _ => runStages cmd st rest s

/-- R68, R291: a host access made while a command ran is over; the stage in progress ends after the last of them. -/
def afterAccess (s : State) : State :=
  match s.seq with
  | .idle => s
  | .run cmd st rest left =>
    if left ≤ 1 then runStages cmd st rest s else { s with seq := .run cmd st rest (left - 1) }

/-- An acceptance without checks of its own (CRC.INIT). -/
def noCheck (_ : State) : Option (ErrCode × Word) := none

end Sys2Proof.Machine
end

