-- ==== Sys2Proof/Machine/Bus.lean ====
section
/-! DEFINITION. The host bus: the address map and its errors (20_memory.md R60 to R64), the reads and the plain
writes of CSRs and buffers (10_state.md R23 to R38), and what a running command does to them (40_control.md R106,
R107). Writes to CMD and CRC_DATA are instructions; Step.lean hands them to exec. -/

namespace Sys2Proof.Machine

/-! ## The address map -/

/-- R60: where a host access goes: a CSR, or a buffer from byte index `i` on. -/
inductive Place where
  | csr (c : Csr)
  | pix (i : Nat)
  | grid (i : Nat)
  | pack (i : Nat)
  | out (i : Nat)
  deriving DecidableEq, Repr

/-- R60: the byte index at which an access of `n` bytes lies whole in the `size` bytes from `base` on. -/
def within (base size n a : Nat) : Option Nat :=
  if base ≤ a ∧ a + n ≤ base + size then some (a - base) else none

/-- R60: the size of the CSR page. -/
def csrPageSize : Nat := 0x1000

/-- R60: the buffer a host address lies in. -/
def bufferPlace (s : State) (n a : Nat) : Except BusError Place :=
  match within 0x10000000 s.capPix.toNat n a with
  | some i => .ok (.pix i)
  | none =>
  match within 0x20000000 (s.capGrid.toNat / 8) n a with
  | some i => .ok (.grid i)
  | none =>
  match within 0x30000000 s.capPack.toNat n a with
  | some i => .ok (.pack i)
  | none =>
  match within 0x40000000 s.capOut.toNat n a with
  | some i => .ok (.out i)
  | none => .error .unmapped

/-- R60, R63, R64: the place of a host access of width `n` at `a`, or why the bus answers BusError. -/
def place (s : State) (n : Width) (a : Word) : Except BusError Place :=
  if a.toNat % n.bytes ≠ 0 then .error .misaligned
  else if a.toNat < csrPageSize then
    if n ≠ .word then .error .csrWidth
    else match csrAt a with
      | some c => .ok (.csr c)
      | none => .error .csrHole
  else bufferPlace s n.bytes a.toNat

/-! ## Reads -/

/-- R23: a CSR's current value. CMD and CRC_DATA are write-only and read 0. -/
def State.readCsr (s : State) : Csr → Word
  | .cmd => 0
  | .status => s.statusWord
  | .err => s.err.code
  | .errInfo => s.errInfo
  | .irqEn => s.irqEnWord
  | .width => s.width
  | .pixLen => s.pixLen
  | .cfg => s.cfgWord
  | .gridW => s.gridW
  | .gridH => s.gridH
  | .pkLen => s.pkLen
  | .pkRowlen => s.pkRowlen
  | .pkW => s.pkW
  | .pkH => s.pkH
  | .outLen => s.outLen
  | .crcData => 0
  | .crcVal => s.crcAcc.zeroExtend 32
  | .crcHex => s.crcHexWord
  | .capPix => s.capPix
  | .capGrid => s.capGrid
  | .capPack => s.capPack
  | .capOut => s.capOut

/-- R107: a read of this CSR returns any value at this moment. -/
def State.csrOpen (s : State) : Csr → Bool
  | .gridW | .gridH => s.gridOpen
  | .pkLen | .pkRowlen | .pkW | .pkH => s.packOpen
  | .outLen => s.outOpen
  | .crcVal | .crcHex => s.busy
  | .cmd | .status | .err | .errInfo | .irqEn | .width | .pixLen | .cfg => false
  | .crcData | .capPix | .capGrid | .capPack | .capOut => false

/-- R107: a read of this place returns any value at this moment. -/
def State.placeOpen (s : State) : Place → Bool
  | .csr c => s.csrOpen c
  | .pix _ => false
  | .grid _ => s.gridOpen
  | .pack _ => s.packOpen
  | .out _ => s.outOpen

/-- R62: the current bytes of a place, lowest address first. -/
def State.placeBytes (s : State) (n : Nat) : Place → List Byte
  | .csr c => bytesOf n (s.readCsr c)
  | .pix i => (List.range n).map fun k => s.mem.pix.read (i + k)
  | .grid i => (List.range n).map fun k => s.mem.grid.readByte (i + k)
  | .pack i => (List.range n).map fun k => s.mem.pack.read (i + k)
  | .out i => (List.range n).map fun k => s.mem.out.read (i + k)

/-- R62, R66, R107: the host reads `n` bytes of a place; an open place gives any value (log 5). -/
def readPlace (n : Nat) (p : Place) (s : State) : State :=
  if s.placeOpen p then
    { s with rdata := ofBytes (bytesOf n (Config.anyWord s.draws)), draws := s.draws + 1 }
  else { s with rdata := ofBytes (s.placeBytes n p) }

/-- R91: WAIT's read of STATUS. -/
def waitRead (s : State) : State := { s with rdata := s.statusWord }

/-! ## Writes -/

/-- R23, R36: the host's plain write of a CSR. RO registers ignore it (R66); CMD and CRC_DATA are not written
here. -/
def State.writeCsr (v : Word) (s : State) : Csr → State
  | .status => s.writeStatus v
  | .irqEn => s.writeIrqEn v
  | .width => { s with width := v }
  | .pixLen => { s with pixLen := v }
  | .cfg => s.writeCfg v
  | .gridW => { s with gridW := v, gridValid := false }
  | .gridH => { s with gridH := v, gridValid := false }
  | .pkLen => { s with pkLen := v, packValid := false }
  | .pkRowlen => { s with pkRowlen := v, packValid := false }
  | .pkW => { s with pkW := v, packValid := false }
  | .pkH => { s with pkH := v, packValid := false }
  | .err | .errInfo | .outLen | .crcVal | .crcHex => s
  | .capPix | .capGrid | .capPack | .capOut => s
  | .cmd | .crcData => s

/-- R106: the places whose write is performed while BUSY = 1 (SOFT.RESET is an instruction). -/
def Place.exempt : Place → Bool
  | .csr c => decide (c = .status ∨ c = .irqEn)
  | .pix _ | .grid _ | .pack _ | .out _ => false

/-- R36, R62: a plain write that is performed, of the `n` low bytes of `v`. -/
def performWrite (n : Nat) (p : Place) (v : Word) (s : State) : State :=
  match p with
  | .csr c => s.writeCsr v c
  | .pix i => s.setPix (s.mem.pix.writeAll i (bytesOf n v))
  | .grid i => { s.setGrid (s.mem.grid.writeBytes i (bytesOf n v)) with gridValid := false }
  | .pack i => { s.setPack (s.mem.pack.writeAll i (bytesOf n v)) with packValid := false }
  | .out _ => s

/-- R106: a plain write: performed, or dropped while BUSY = 1. -/
def writePlace (n : Nat) (p : Place) (v : Word) (s : State) : State :=
  if s.busy && !p.exempt then s.dropWrite else performWrite n p v s

/-! ## What a host store is -/

/-- A host store is an instruction, a command word that does not decode, or a plain write. -/
inductive StoreKind where
  | instr (i : Instr)
  | badWord (wd : Word)
  | plain (p : Place)
  deriving DecidableEq, Repr

/-- R64, R88, R100: what a host store of width `n` at `a` is, or why the bus answers BusError. -/
def storeKind (s : State) (n : Width) (a v : Word) : Except BusError StoreKind :=
  match place s n a with
  | .error e => .error e
  | .ok (.out _) => .error .outWrite
  | .ok (.csr .cmd) =>
    match decodeWrite Csr.cmd.offset v with
    | .ok i => .ok (.instr i)
    | .error _ => .ok (.badWord v)
  | .ok (.csr .crcData) =>
    match decodeWrite Csr.crcData.offset v with
    | .ok i => .ok (.instr i)
    | .error _ => .ok (.badWord v)
  | .ok p => .ok (.plain p)

end Sys2Proof.Machine
end

