-- ==== Sys2Proof/Machine/Checksum.lean ====
section
/-! DEFINITION. The meanings of CRC.INIT and CRC.FEED (41_crc16.md). -/

namespace Sys2Proof.Machine

/-- R130: CRC.INIT, start a new checksum. -/
def execCrcInit (s : State) : Host.Outcome State Fault Refusal := .next (issue .crcInit noCheck s)

/-- R134, R135: CRC.FEED, dropped while BUSY = 1 (R106). It starts no command and leaves DONE. -/
def execCrcFeed (v : Word) (s : State) : Host.Outcome State Fault Refusal :=
  .next (if s.busy then s.dropWrite else crcFeedIdle v s)

end Sys2Proof.Machine
end

