-- ==== Sys2Proof/Machine/Control.lean ====
section
/-! DEFINITION. The meanings of CONVERT in its two formats and five rotate codes, and of SOFT.RESET
(40_control.md R110 to R112). CONVERT makes THRESH's acceptance checks and runs the three stages. -/

namespace Sys2Proof.Machine

/-- R110: CONVERT.Z64 N. -/
def execConvertZ64N (s : State) : Host.Outcome State Fault Refusal := .next (issue .convertZ64N threshCheck s)

/-- R110: CONVERT.Z64 I. -/
def execConvertZ64I (s : State) : Host.Outcome State Fault Refusal := .next (issue .convertZ64I threshCheck s)

/-- R110: CONVERT.Z64 L. -/
def execConvertZ64L (s : State) : Host.Outcome State Fault Refusal := .next (issue .convertZ64L threshCheck s)

/-- R110: CONVERT.Z64 B. -/
def execConvertZ64B (s : State) : Host.Outcome State Fault Refusal := .next (issue .convertZ64B threshCheck s)

/-- R110: CONVERT.Z64 R. -/
def execConvertZ64R (s : State) : Host.Outcome State Fault Refusal := .next (issue .convertZ64R threshCheck s)

/-- R110: CONVERT.ACS N. -/
def execConvertAcsN (s : State) : Host.Outcome State Fault Refusal := .next (issue .convertAcsN threshCheck s)

/-- R110: CONVERT.ACS I. -/
def execConvertAcsI (s : State) : Host.Outcome State Fault Refusal := .next (issue .convertAcsI threshCheck s)

/-- R110: CONVERT.ACS L. -/
def execConvertAcsL (s : State) : Host.Outcome State Fault Refusal := .next (issue .convertAcsL threshCheck s)

/-- R110: CONVERT.ACS B. -/
def execConvertAcsB (s : State) : Host.Outcome State Fault Refusal := .next (issue .convertAcsB threshCheck s)

/-- R110: CONVERT.ACS R. -/
def execConvertAcsR (s : State) : Host.Outcome State Fault Refusal := .next (issue .convertAcsR threshCheck s)

/-- R112: SOFT.RESET, at any time. It is complete when its write completes (R282). -/
def execSoftReset (s : State) : Host.Outcome State Fault Refusal := .next s.resetBlock

end Sys2Proof.Machine
end

