-- ==== Sys2Proof/Machine/Encoder.lean ====
section
/-! DEFINITION. The meanings of ENC.Z64 (44_z64.md) and ENC.ACS (45_acs.md). -/

namespace Sys2Proof.Machine

/-- R210: ENC.Z64. -/
def execEncZ64 (s : State) : Host.Outcome State Fault Refusal := .next (issue .encZ64 encCheck s)

/-- R230: ENC.ACS. -/
def execEncAcs (s : State) : Host.Outcome State Fault Refusal := .next (issue .encAcs encCheck s)

end Sys2Proof.Machine
end

