-- ==== Sys2Proof/Machine/Packer.lean ====
section
/-! DEFINITION. The meanings of PACK in its five rotate codes and of LOAD.PACK (43_pack.md). -/

namespace Sys2Proof.Machine

/-- R182: PACK.N. -/
def execPackN (s : State) : Host.Outcome State Fault Refusal := .next (issue .packN (packCheck .normal) s)

/-- R183: PACK.I. -/
def execPackI (s : State) : Host.Outcome State Fault Refusal := .next (issue .packI (packCheck .invert) s)

/-- R184: PACK.L. -/
def execPackL (s : State) : Host.Outcome State Fault Refusal := .next (issue .packL (packCheck .rotateLeft) s)

/-- R185: PACK.B, which is PACK.L. -/
def execPackB (s : State) : Host.Outcome State Fault Refusal := .next (issue .packB (packCheck .rotateLeft) s)

/-- R186: PACK.R. -/
def execPackR (s : State) : Host.Outcome State Fault Refusal := .next (issue .packR (packCheck .rotateRight) s)

/-- R190: LOAD.PACK, accept a bitmap the host wrote. -/
def execLoadPack (s : State) : Host.Outcome State Fault Refusal := .next (issue .loadPack loadPackCheck s)

end Sys2Proof.Machine
end

