-- ==== Sys2Proof/Machine/Threshold.lean ====
section
/-! DEFINITION. The meanings of THRESH and LOAD.GRID (42_threshold.md). -/

namespace Sys2Proof.Machine

/-- R150: THRESH, PIX to GRID. -/
def execThresh (s : State) : Host.Outcome State Fault Refusal := .next (issue .thresh threshCheck s)

/-- R160: LOAD.GRID, accept a grid the host wrote. -/
def execLoadGrid (s : State) : Host.Outcome State Fault Refusal := .next (issue .loadGrid loadGridCheck s)

end Sys2Proof.Machine
end

