-- ==== Sys2Proof/Machine/Dispatch.lean ====
section
/-! DEFINITION. One arm per instruction: the meaning each one has. -/

namespace Sys2Proof.Machine

def exec (i : Instr) (s : State) : Host.Outcome State Fault Refusal :=
  match i with
  | .crcInit => Sys2Proof.Machine.execCrcInit s
  | .thresh => Sys2Proof.Machine.execThresh s
  | .loadGrid => Sys2Proof.Machine.execLoadGrid s
  | .packN => Sys2Proof.Machine.execPackN s
  | .packI => Sys2Proof.Machine.execPackI s
  | .packL => Sys2Proof.Machine.execPackL s
  | .packB => Sys2Proof.Machine.execPackB s
  | .packR => Sys2Proof.Machine.execPackR s
  | .loadPack => Sys2Proof.Machine.execLoadPack s
  | .encZ64 => Sys2Proof.Machine.execEncZ64 s
  | .encAcs => Sys2Proof.Machine.execEncAcs s
  | .convertZ64N => Sys2Proof.Machine.execConvertZ64N s
  | .convertZ64I => Sys2Proof.Machine.execConvertZ64I s
  | .convertZ64L => Sys2Proof.Machine.execConvertZ64L s
  | .convertZ64B => Sys2Proof.Machine.execConvertZ64B s
  | .convertZ64R => Sys2Proof.Machine.execConvertZ64R s
  | .convertAcsN => Sys2Proof.Machine.execConvertAcsN s
  | .convertAcsI => Sys2Proof.Machine.execConvertAcsI s
  | .convertAcsL => Sys2Proof.Machine.execConvertAcsL s
  | .convertAcsB => Sys2Proof.Machine.execConvertAcsB s
  | .convertAcsR => Sys2Proof.Machine.execConvertAcsR s
  | .softReset => Sys2Proof.Machine.execSoftReset s
  | .crcFeed v => Sys2Proof.Machine.execCrcFeed v s

end Sys2Proof.Machine
end

