-- ==== Sys2Proof/Machine/Step.lean ====
section
/-! DEFINITION. One step of a run: the next thing that reaches the block from outside, or, while the host waits or
has nothing to do, the sequencer's own progress (20_memory.md R68, 30_encoding.md R90, R91). -/

namespace Sys2Proof.Machine

/-- What follows a host access: if a command ran during it, its stage may now end (R291). -/
def after (ran : Bool) : Host.Outcome State Fault Refusal → Host.Outcome State Fault Refusal
  | .next s => .next (if ran then afterAccess s else s)
  | .fault r => .fault r
  | .refused r => .refused r

/-- A host load (R62 to R66). -/
def stepLoad (n : Width) (a : Word) (s : State) : Host.Outcome State Fault Refusal :=
  match place s n a with
  | .error e => .fault (.busError e a)
  | .ok p => .next (readPlace n.bytes p s)

/-- A host store (R62 to R66, R88, R100). -/
def stepStore (n : Width) (a v : Word) (s : State) : Host.Outcome State Fault Refusal :=
  match storeKind s n a v with
  | .error e => .fault (.busError e a)
  | .ok (.instr i) => exec i s
  | .ok (.badWord wd) => .next (badCommand wd s)
  | .ok (.plain p) => .next (writePlace n.bytes p v s)

/-- The next step. The host's position in its program is the head of `inputs`. WAIT is enabled only while the block
is idle (R91); until then, and when no input is left, the sequencer goes on (log 11). -/
def step (s : State) : Host.Outcome State Fault Refusal :=
  match s.inputs with
  | [] => .next (finishStage s)
  | .hwReset :: rest => .next { s with inputs := rest }.resetBlock
  | .powerOn :: rest => .next { s with inputs := rest }.powerCycle
  | .host .wait :: rest =>
    .next (if s.busy then finishStage s else waitRead { s with inputs := rest })
  | .host (.load n a) :: rest => after s.busy (stepLoad n a { s with inputs := rest })
  | .host (.store n a v) :: rest => after s.busy (stepStore n a v { s with inputs := rest })

/-- `s` with a table word's host write as the next thing the host does, and the stages of its command taking no
time, so that the very next step runs the instruction to its end (log 1, log 13). -/
def State.withFetchWord (s : State) (nbits w : Nat) : State :=
  let p := tableWrite nbits w
  let n := match decodeTableWord nbits w with
    | some i => (stagesOf i).length
    | none => 0
  { s with
    inputs := .host (.store .word p.1 p.2) :: s.inputs
    stalls := List.replicate n 0 ++ s.stalls }

end Sys2Proof.Machine
end

