-- ==== Sys2Proof/Safety.lean ====
section
/-! DEFINITION. What the claims about the machine are stated in: its invariants, the hazard rule of a host program
(70_reset_and_hazards.md R290), running a command to its end, and the reference functions that the spec's own laws
compare with (45_acs.md R236). -/

namespace Sys2Proof.Machine

/-! ## Invariants -/

/-- Every listed index is below `n`. -/
def below {α : Type} (n : Nat) (l : List (Nat × α)) : Bool := l.all fun c => decide (c.1 < n)

/-- R8, R38: the CAP_ registers hold legal parameters. -/
def State.capsOk (s : State) : Bool :=
  capsLegal s.capPix.toNat s.capGrid.toNat s.capPack.toNat s.capOut.toNat

/-- R67: memory is in canonical form and lists no element at or beyond a buffer's capacity. -/
def State.memOk (s : State) : Bool :=
  s.mem.wf && below s.capPix.toNat s.mem.pix.cells && below s.capGrid.toNat s.mem.grid.cells &&
  below s.capPack.toNat s.mem.pack.cells && below s.capOut.toNat s.mem.out.cells

/-- R36, R160: the grid that GRID_W and GRID_H describe fits. -/
def State.gridFits (s : State) : Bool := decide (s.gridW.toNat * s.gridH.toNat ≤ s.capGrid.toNat)

/-- R36, R190: the bitmap that the PK_ registers describe is consistent and fits. -/
def State.packFits (s : State) : Bool :=
  decide (s.pkRowlen.toNat = ceil8 s.pkW.toNat ∧ s.pkLen.toNat = s.pkRowlen.toNat * s.pkH.toNat ∧
    s.pkLen.toNat ≤ s.capPack.toNat)

/-- The stage in progress is `st`. -/
def State.running (st : Stage) (s : State) : Bool :=
  match s.seq with
  | .idle => false
  | .run _ st' _ _ => decide (st' = st)

/-- R36: what a set valid bit promises of the descriptors it stands for; and so do LOAD.GRID and LOAD.PACK, which
have made sure of it, while they run. -/
def State.validOk (s : State) : Bool :=
  (!(s.gridValid || s.running .loadGrid) || s.gridFits) && (!(s.packValid || s.running .loadPack) || s.packFits) &&
  (!s.outValid || decide (s.outLen.toNat ≤ s.capOut.toNat))

/-- R251, R100, R105: ERR_INFO is 0 where ERR is 0, and a running command has reported nothing yet. -/
def State.reportOk (s : State) : Bool :=
  (decide (s.err ≠ .none) || decide (s.errInfo = 0)) &&
  (!s.busy || (!s.done && decide (s.err = .none)))

/-- R48, R111: the stages still to run are the last ones of the command, and a PACK or ENC stage has the valid
operand its command or the stage before it made sure of. -/
def State.seqOk (s : State) : Bool :=
  match s.seq with
  | .idle => true
  | .run cmd st rest _ =>
    (st :: rest).isSuffixOf (stagesOf cmd) && (!st.toPack || s.gridValid) && (!st.toOut || s.packValid)

/-! ## Commands run to their end -/

/-- Every stage still to run ends; three are enough, since no command has more (R108). -/
def drain (s : State) : State := finishStage (finishStage (finishStage s))

/-- The frame's registers after a command of one stage that succeeded at once (R100, R101, R105). -/
def State.completed (s : State) : State :=
  { s with
    seq := .idle, done := true, err := .none, errInfo := 0
    stalls := s.stalls.tail, started := s.started + 1 }

/-- A state after the error report of a Reject (R103, R259): nothing but the report changes. -/
def State.rejected (s : State) (code : ErrCode) (info : Word) : State :=
  { s with done := true, err := code, errInfo := info }

/-- Instructions executed in order, each after the one before it has answered a next state. -/
def execAll : List Instr → State → Host.Outcome State Fault Refusal
  | [], s => .next s
  | i :: r, s =>
    match exec i s with
    | .next t => execAll r t
    | .fault e => .fault e
    | .refused e => .refused e

/-! ## Safe runs -/

/-- The step raises no BusError. -/
def State.busSafe (s : State) : Bool :=
  match step s with
  | .next _ => true
  | .fault _ => false
  | .refused _ => false

/-- R290, item 1: from a command word on, and until the next WAIT, the host makes only the accesses that are exempt
(a STATUS or IRQ_EN access, SOFT.RESET). `open_` says that such a command may still run. -/
def obeysHazards (open_ : Bool) : List Input → Bool
  | [] => true
  | .hwReset :: r => obeysHazards false r
  | .powerOn :: r => obeysHazards false r
  | .host .wait :: r => obeysHazards false r
  | .host (.load _ a) :: r =>
    (!open_ || decide (a = Csr.status.offset ∨ a = Csr.irqEn.offset)) && obeysHazards open_ r
  | .host (.store _ a v) :: r =>
    if a = Csr.cmd.offset then
      if v = encodeWord .softReset then obeysHazards false r else !open_ && obeysHazards true r
    else if a = Csr.status.offset ∨ a = Csr.irqEn.offset then obeysHazards open_ r
    else !open_ && obeysHazards open_ r

/-! ## What a host load gives -/

/-- R62, R63: `v` is the value of `n` bytes of which the byte at offset `k` has `bit k j` as its bit `j`: the byte at
the lowest address is least significant, and nothing stands above the last. -/
def loadValue (n : Nat) (bit : Nat → Nat → Bool) (v : Word) : Prop :=
  (∀ k j, k < n → j < 8 → v.getLsbD (8 * k + j) = bit k j) ∧ ∀ m, 8 * n ≤ m → v.getLsbD m = false

/-- R41, R60, R62: `v` is what a host load of `n` bytes at a place gives where it gives the current value; cell `m` of
GRID is bit `7 - (m mod 8)` of GRID byte `m div 8`. -/
def State.hostReads (s : State) (n : Nat) (p : Place) (v : Word) : Prop :=
  match p with
  | .csr c => v = s.readCsr c
  | .pix i => loadValue n (fun k j => (s.mem.pix.read (i + k)).getLsbD j) v
  | .grid i => loadValue n (fun k j => s.mem.grid.read (8 * (i + k) + (7 - j))) v
  | .pack i => loadValue n (fun k j => (s.mem.pack.read (i + k)).getLsbD j) v
  | .out i => loadValue n (fun k j => (s.mem.out.read (i + k)).getLsbD j) v

/-! ## The spec's reference functions -/

/-- R231: `hx` is the hexadecimal text of `bs`: two digits a byte, `0` to `9` and `a` to `f`, the high one first. -/
def isHexOf (bs hx : List Byte) : Prop :=
  let digit (n : Nat) : Byte := if n < 10 then BitVec.ofNat 8 (0x30 + n) else BitVec.ofNat 8 (0x57 + n)
  hx.length = 2 * bs.length ∧ ∀ k b, bs[k]? = some b →
    hx[2 * k]? = some (digit (b.toNat / 16)) ∧ hx[2 * k + 1]? = some (digit (b.toNat % 16))

/-- R232: `rs` cuts a text into its maximal runs: no run is empty, neighbouring runs have different digits. -/
def maximalRuns (text : List Byte) (rs : List (Byte × Nat)) : Prop :=
  (∀ r ∈ rs, 1 ≤ r.2) ∧ rs.IsChain (fun a b => a.1 ≠ b.1) ∧ text = rs.flatMap fun r => List.replicate r.2 r.1

/-- R233: how many copies an ACS marker counts; none for a hexadecimal digit. -/
def markerValue (c : Byte) : Option Nat :=
  if 0x47 ≤ c.toNat ∧ c.toNat ≤ 0x59 then some (c.toNat - 0x46)
  else if 0x67 ≤ c.toNat ∧ c.toNat ≤ 0x79 then some (20 * (c.toNat - 0x66))
  else if c.toNat = 0x7A then some 400
  else none

/-- R236: the decoder, with `n` the sum of the markers read since the last digit. -/
def acsDecode (n : Nat) : List Byte → List Byte
  | [] => []
  | c :: r =>
    match markerValue c with
    | some k => acsDecode (n + k) r
    | none => List.replicate (if n = 0 then 1 else n) c ++ acsDecode 0 r

/-- The cells of the `w` by `h` grid that an orientation's output is, read back as a grid G(x, y) (R188). -/
def turned (o : Orient) (w h : Nat) (g : Nat → Nat → Bool) : Nat → Nat → Bool := fun x y => outCell o w h g y x

/-- The number of 1 cells of a `w` by `h` grid (R188). -/
def inkCount (w h : Nat) (g : Nat → Nat → Bool) : Nat :=
  ((List.range h).flatMap fun y => (List.range w).map fun x => g x y).count true

end Sys2Proof.Machine
end

