-- ==== Sys2Proof/Certificates/Slice0/Obligations.lean ====
section
/-! DEFINITION. The statements about ZPLCORE, in the order of OBLIGATIONS.json.

In the results below `s.completed` (Safety.lean) is `s` with the frame's registers as R100, R101 and R105 leave them
after a command of one stage that took no time, and `s.rejected` is `s` with the report of R103. A statement that
gives `exec i s` as such a state says everything it changes and that nothing else changes. The premise
`s.nextStall = 0` (or `s.stalls = 0 :: 0 :: 0 :: rest`) is that the command's stages take no time, which R291 allows;
`DurationDoesNotChangeTheResult` says that the result is the same for every other time (log 2). -/

open Sys2Proof Sys2Proof.Machine

/-! ## Encoding -/

/-- R92: the word of every mnemonic of the table is the command it stands for, and CRC.FEED is every word written
to CRC_DATA (R88). -/
def Obligations.EveryMnemonicHasItsWord : Prop :=
  decodeWrite 0x000 0x00000001 = .ok .crcInit ∧
  decodeWrite 0x000 0x00000010 = .ok .thresh ∧
  decodeWrite 0x000 0x00000011 = .ok .loadGrid ∧
  decodeWrite 0x000 0x00000020 = .ok .packN ∧
  decodeWrite 0x000 0x00000120 = .ok .packI ∧
  decodeWrite 0x000 0x00000220 = .ok .packL ∧
  decodeWrite 0x000 0x00000320 = .ok .packB ∧
  decodeWrite 0x000 0x00000420 = .ok .packR ∧
  decodeWrite 0x000 0x00000021 = .ok .loadPack ∧
  decodeWrite 0x000 0x00000030 = .ok .encZ64 ∧
  decodeWrite 0x000 0x00001030 = .ok .encAcs ∧
  decodeWrite 0x000 0x00000040 = .ok .convertZ64N ∧
  decodeWrite 0x000 0x00000140 = .ok .convertZ64I ∧
  decodeWrite 0x000 0x00000240 = .ok .convertZ64L ∧
  decodeWrite 0x000 0x00000340 = .ok .convertZ64B ∧
  decodeWrite 0x000 0x00000440 = .ok .convertZ64R ∧
  decodeWrite 0x000 0x00001040 = .ok .convertAcsN ∧
  decodeWrite 0x000 0x00001140 = .ok .convertAcsI ∧
  decodeWrite 0x000 0x00001240 = .ok .convertAcsL ∧
  decodeWrite 0x000 0x00001340 = .ok .convertAcsB ∧
  decodeWrite 0x000 0x00001440 = .ok .convertAcsR ∧
  decodeWrite 0x000 0x000000FF = .ok .softReset ∧
  ∀ v, decodeWrite 0x03C v = .ok (.crcFeed v)

/-- R89, R92: a host write decodes to an instruction exactly when it is that instruction's encoding: no bit of a
word is dropped, and no other word stands for it. -/
def Obligations.DecodeAndEncodeAgree : Prop :=
  ∀ (i : Instr) (off v : Word), i.wf = true → (decodeWrite off v = .ok i ↔ encode i = (off, v))

/-- R84, R85: on an idle block, a CMD word with a reserved OP, a reserved field value or a nonzero unused field is
rejected with BAD_COMMAND and the word in ERR_INFO, and nothing but the report changes. -/
def Obligations.UndecodableWordsAreRejected : Prop :=
  ∀ (s : State) (rest : List Input) (w : Word),
    let op := w.toNat % 256
    let rot := w.toNat / 256 % 8
    let fmt := w.toNat / 4096 % 2
    s.seq = .idle → s.inputs = .host (.store .word 0x000 w) :: rest →
    (w.toNat / 2048 % 2 ≠ 0 ∨ w.toNat / 8192 ≠ 0 ∨
      op ∉ [0x01, 0x10, 0x11, 0x20, 0x21, 0x30, 0x40, 0xFF] ∨
      (op ∈ [0x01, 0x10, 0x11, 0x21, 0xFF] ∧ (rot ≠ 0 ∨ fmt ≠ 0)) ∨
      (op = 0x20 ∧ (4 < rot ∨ fmt ≠ 0)) ∨ (op = 0x30 ∧ rot ≠ 0) ∨ (op = 0x40 ∧ 4 < rot)) →
    step s = .next ({ s with inputs := rest }.rejected .badCommand w)

/-! ## The step -/

/-- R68, R88, R90, R100: when the host's next operation writes CMD or CRC_DATA with a word that decodes to `i`, the step
is `exec i` after that operation is taken from the program; every other load or store steps as `stepLoad` or
`stepStore` says; if a command was running, the access counts towards its duration (log 2). -/
def Obligations.StepRunsTheDecodedInstruction : Prop :=
  (∀ (s : State) (rest : List Input) (c : Csr) (v : Word) (i : Instr),
    c = .cmd ∨ c = .crcData → s.inputs = .host (.store .word c.offset v) :: rest →
    decodeWrite c.offset v = .ok i →
    step s =
      match exec i { s with inputs := rest } with
      | .next t => .next (if s.busy then afterAccess t else t)
      | .fault e => .fault e
      | .refused e => .refused e) ∧
  (∀ (s : State) (rest : List Input) (n : Width) (a v : Word), s.inputs = .host (.store n a v) :: rest →
    step s =
      match stepStore n a v { s with inputs := rest } with
      | .next t => .next (if s.busy then afterAccess t else t)
      | .fault e => .fault e
      | .refused e => .refused e) ∧
  ∀ (s : State) (rest : List Input) (n : Width) (a : Word), s.inputs = .host (.load n a) :: rest →
    step s =
      match stepLoad n a { s with inputs := rest } with
      | .next t => .next (if s.busy then afterAccess t else t)
      | .fault e => .fault e
      | .refused e => .refused e

/-- R252: no instruction faults and none is refused: each answers a next state, whatever the state. -/
def Obligations.EveryInstructionAnswersNext : Prop :=
  ∀ (i : Instr) (s : State), ∃ t, exec i s = .next t

/-! ## Checksum -/

/-- R132, R133: the 16-bit accumulator gives what the source's 32-bit loop gives, for every sequence of codes: the same
checksum, or OutOfRange (`none`) exactly if some code is above 255. R131: the table, by its eight iterations; R133: one
step of the accumulator, in numbers. -/
def Obligations.ChecksumEqualsReferenceLoop : Prop :=
  (∀ codes : List Nat, crc16Of codes = crc32Ref codes ∧ (crc32Ref codes = none ↔ ∃ c ∈ codes, 255 < c)) ∧
  (∀ codes : List Byte, crc16Of (codes.map BitVec.toNat) = some (codes.foldl crcStep 0)) ∧
  (∀ (acc : Word16) (c : Byte),
    (crcStep acc c).toNat =
      (crcTable (BitVec.ofNat 8 (c.toNat ^^^ acc.toNat / 256))).toNat % 65536 ^^^ acc.toNat * 256 % 65536) ∧
  ∀ i : Byte, (crcTable i).toNat =
    Nat.iterate (fun c => if c % 2 = 1 then 0xEDB88320 ^^^ c / 2 else c / 2) 8 i.toNat

/-- R130: CRC.INIT. -/
def Obligations.CrcInitStartsNewChecksum : Prop :=
  ∀ s : State, s.seq = .idle → s.nextStall = 0 →
    exec .crcInit s = .next { s.completed with crcAcc := 0, crcErr := false } ∧
    { s.completed with crcAcc := 0, crcErr := false }.readCsr .crcVal = 0 ∧
    { s.completed with crcAcc := 0, crcErr := false }.readCsr .crcHex = 0x30303030 ∧
    encode .crcInit = (Csr.cmd.offset, 0x00000001)

/-- R134, R135: CRC.FEED: a step of the checksum; the first code above 255 is recorded and freezes the accumulator;
a frozen accumulator ignores every code; while BUSY = 1 the write is dropped. -/
def Obligations.CrcFeedUpdatesOrFreezes : Prop :=
  ∀ (s : State) (v : Word),
    (s.seq = .idle → s.crcErr = false → v.toNat ≤ 255 →
      exec (.crcFeed v) s = .next { s with crcAcc := crcStep s.crcAcc (BitVec.ofNat 8 v.toNat) }) ∧
    (s.seq = .idle → s.crcErr = false → 255 < v.toNat →
      exec (.crcFeed v) s = .next { s with crcErr := true, err := .charOutOfRange, errInfo := v }) ∧
    (s.seq = .idle → s.crcErr = true → exec (.crcFeed v) s = .next s) ∧
    (s.seq ≠ .idle → exec (.crcFeed v) s = .next { s with conflict := true })

/-- R136: CRC.INIT and then a CRC.FEED for each code; CRC_ERR stays 0 exactly when every code is at most 255, and
then CRC_HEX holds the four digits of the checksum. -/
def Obligations.ChecksumOfAString : Prop :=
  ∀ (s : State) (codes : List Word), s.seq = .idle → s.nextStall = 0 →
    ∃ t, execAll (.crcInit :: codes.map .crcFeed) s = .next t ∧
      (t.crcErr = false ↔ ∀ c ∈ codes, c.toNat ≤ 255) ∧
      (t.crcErr = false →
        t.readCsr .crcHex = ofBytes (hex4 (crc16 (codes.map fun c => BitVec.ofNat 8 c.toNat))))

/-- R37: CRC_HEX holds the four lowercase digits of crc_acc, the most significant in bits [7:0]; it is read-only;
it reads 0x3030_3030 at reset. -/
def Obligations.CrcHexHoldsTheDigits : Prop :=
  (∀ (s : State) (k : Nat), k < 4 →
    let d := s.crcAcc.toNat / 16 ^ (3 - k) % 16
    ((s.readCsr .crcHex).toNat / 256 ^ k % 256) = if d < 10 then 0x30 + d else 0x61 + (d - 10)) ∧
  (∀ (s : State) (v : Word), s.writeCsr v .crcHex = s) ∧
  State.reset.readCsr .crcHex = 0x30303030

/-! ## Thresholder -/

/-- R153: the pixel is ink exactly when gray <= black, with the source's formula in exact arithmetic. -/
def Obligations.InkIsTheLuminanceTest : Prop :=
  ∀ (p : Pixel) (percent : Nat),
    let a : ℚ := (p.a.toNat : ℚ) / 255
    ink p percent = true ↔
      ((3 / 10 : ℚ) * p.r.toNat + (59 / 100) * p.g.toNat + (11 / 100) * p.b.toNat) * a + 3 * 255 * (1 - a)
        ≤ 255 * (percent : ℚ) / 100

/-- R151: the acceptance checks of THRESH and of every CONVERT, in order; the first that fails rejects, and
nothing but the report changes. -/
def Obligations.ThresholdChecksInOrder : Prop :=
  ∀ (s : State) (i : Instr),
    i ∈ [.thresh, .convertZ64N, .convertZ64I, .convertZ64L, .convertZ64B, .convertZ64R, .convertAcsN, .convertAcsI,
      .convertAcsL, .convertAcsB, .convertAcsR] →
    s.seq = .idle →
    (s.width.toInt ≤ 0 → exec i s = .next (s.rejected .invalidWidth s.width)) ∧
    (0 < s.width.toInt → (s.black.toNat < 1 ∨ 99 < s.black.toNat) → exec i s = .next (s.rejected .badConfig 1)) ∧
    (0 < s.width.toInt → 1 ≤ s.black.toNat → s.black.toNat ≤ 99 → s.capPix.toNat < s.pixLen.toNat →
      exec i s = .next (s.rejected .capacity 1))

/-- R150, R157: THRESH with operands that pass its checks and a grid that fits: the cells of its window, the
descriptors, GRID_VALID and EMPTY; nothing else but the frame's registers. -/
def Obligations.ThresholdWritesTheGrid : Prop :=
  ∀ s : State, s.seq = .idle → s.nextStall = 0 → 0 < s.width.toInt → 1 ≤ s.black.toNat → s.black.toNat ≤ 99 →
    s.pixLen.toNat ≤ s.capPix.toNat → s.window.w * s.window.h ≤ s.capGrid.toNat →
    exec .thresh s = .next { s.completed with
      empty := s.noInk
      gridW := BitVec.ofNat 32 s.window.w
      gridH := BitVec.ofNat 32 s.window.h
      gridValid := true
      mem := { s.mem with grid := ⟨numberFrom 0 (windowCells s.window s.inkAt), s.draws⟩ }
      draws := s.draws + 1 }

/-- R40, R41, R155: with NOTRIM = 1 the grid is the whole image, W by H with H = L div (4 * W), and cell (x, y), which
is cell y * W + x of GRID, is the ink test of pixel (x, y), which is the bytes R, G, B, A at p = 4 * (y * W + x) of
PIX. -/
def Obligations.NoTrimGridIsTheWholeImage : Prop :=
  ∀ s : State,
    let w := s.width.toInt.toNat
    let h := s.pixLen.toNat / (4 * w)
    let pixel := fun x y =>
      let p := 4 * (y * w + x)
      Pixel.mk (s.mem.pix.read p) (s.mem.pix.read (p + 1)) (s.mem.pix.read (p + 2)) (s.mem.pix.read (p + 3))
    s.seq = .idle → s.nextStall = 0 → 0 < s.width.toInt → 1 ≤ s.black.toNat → s.black.toNat ≤ 99 →
    s.pixLen.toNat ≤ s.capPix.toNat → s.notrim = true → w * h ≤ s.capGrid.toNat →
    ∃ t, exec .thresh s = .next t ∧ t.gridW.toNat = w ∧ t.gridH.toNat = h ∧ t.gridValid = true ∧ t.empty = false ∧
      ∀ x y, x < w → y < h → t.mem.grid.read (y * w + x) = ink (pixel x y) s.black.toNat

/-- R40, R41, R156: with NOTRIM = 0 the grid is cropped to the least rectangle that holds every ink pixel; where there
is no ink it is 0 by 0, with EMPTY = 1 and no error. Pixels and cells are read as in `NoTrimGridIsTheWholeImage`. -/
def Obligations.TrimCropsToTheInk : Prop :=
  ∀ s : State,
    let w := s.width.toInt.toNat
    let h := s.pixLen.toNat / (4 * w)
    let pixel := fun x y =>
      let p := 4 * (y * w + x)
      Pixel.mk (s.mem.pix.read p) (s.mem.pix.read (p + 1)) (s.mem.pix.read (p + 2)) (s.mem.pix.read (p + 3))
    let isInk := fun x y => x < w ∧ y < h ∧ ink (pixel x y) s.black.toNat = true
    s.seq = .idle → s.nextStall = 0 → 0 < s.width.toInt → 1 ≤ s.black.toNat → s.black.toNat ≤ 99 →
    s.pixLen.toNat ≤ s.capPix.toNat → s.notrim = false →
    (∀ x0 x1 y0 y1, (∀ x y, isInk x y → x0 ≤ x ∧ x ≤ x1 ∧ y0 ≤ y ∧ y ≤ y1) →
      (∃ y, isInk x0 y) → (∃ y, isInk x1 y) → (∃ x, isInk x y0) → (∃ x, isInk x y1) →
      (x1 - x0 + 1) * (y1 - y0 + 1) ≤ s.capGrid.toNat →
      ∃ t, exec .thresh s = .next t ∧ t.gridW.toNat = x1 - x0 + 1 ∧ t.gridH.toNat = y1 - y0 + 1 ∧
        t.gridValid = true ∧ t.empty = false ∧ t.err = .none ∧
        ∀ x y, x < x1 - x0 + 1 → y < y1 - y0 + 1 →
          t.mem.grid.read (y * (x1 - x0 + 1) + x) = ink (pixel (x0 + x) (y0 + y)) s.black.toNat) ∧
    ((∀ x y, ¬ isInk x y) →
      ∃ t, exec .thresh s = .next t ∧ t.gridW = 0 ∧ t.gridH = 0 ∧ t.gridValid = true ∧ t.empty = true ∧
        t.err = .none)

/-- R104, R110, R111, R157: in THRESH and in every CONVERT a grid that does not fit aborts with CAPACITY (2): GRID is
any value, GRID_VALID is 0, the descriptors are kept, and nothing else but the frame's registers and EMPTY changes: no
later stage of a CONVERT runs. -/
def Obligations.GridOverflowAborts : Prop :=
  ∀ (s : State) (i : Instr),
    i ∈ [.thresh, .convertZ64N, .convertZ64I, .convertZ64L, .convertZ64B, .convertZ64R, .convertAcsN, .convertAcsI,
      .convertAcsL, .convertAcsB, .convertAcsR] →
    s.seq = .idle → s.nextStall = 0 → 0 < s.width.toInt → 1 ≤ s.black.toNat → s.black.toNat ≤ 99 →
    s.pixLen.toNat ≤ s.capPix.toNat → s.capGrid.toNat < s.window.w * s.window.h →
    exec i s = .next { s.completed with
      err := .capacity
      errInfo := 2
      empty := false
      gridValid := false
      mem := { s.mem with grid := ⟨[], s.draws⟩ }
      draws := s.draws + 1 }

/-- R159: THRESH's result is a function of W, L, P, NT and the PIX bytes below 4 * W * H: two blocks that agree on
them get the same window, cells and EMPTY. -/
def Obligations.ThresholdReadsOnlyItsOperands : Prop :=
  ∀ s s' : State, s.width = s'.width → s.pixLen = s'.pixLen → s.black = s'.black → s.notrim = s'.notrim →
    (∀ k, k < 4 * s.columns * s.rows → s.mem.pix.read k = s'.mem.pix.read k) →
    s.window = s'.window ∧ s.noInk = s'.noInk ∧
      windowCells s.window s.inkAt = windowCells s'.window s'.inkAt

/-- R160: LOAD.GRID sets GRID_VALID if w * h fits, and rejects with CAPACITY (2) if it does not; GRID and its
descriptors are not changed. -/
def Obligations.LoadGridChecksTheSize : Prop :=
  ∀ s : State, s.seq = .idle →
    (s.nextStall = 0 → s.gridW.toNat * s.gridH.toNat ≤ s.capGrid.toNat →
      exec .loadGrid s = .next { s.completed with gridValid := true }) ∧
    (s.capGrid.toNat < s.gridW.toNat * s.gridH.toNat → exec .loadGrid s = .next (s.rejected .capacity 2))

/-! ## Packer -/

/-- R180, R187: PACK of a valid grid that fits, in each of the five rotate codes: the packed bytes, the four
descriptors and PACK_VALID; GRID and everything else but the frame's registers is not changed. -/
def Obligations.PackWritesTheBitmap : Prop :=
  ∀ (s : State) (i : Instr) (o : Orient),
    (i, o) ∈ [(Instr.packN, Orient.normal), (.packI, .invert), (.packL, .rotateLeft), (.packB, .rotateLeft),
      (.packR, .rotateRight)] →
    let d := outDims o s.gridW.toNat s.gridH.toNat
    s.seq = .idle → s.nextStall = 0 → s.gridValid = true → ceil8 d.1 * d.2 ≤ s.capPack.toNat →
    exec i s = .next { s.completed with
      pkLen := BitVec.ofNat 32 (ceil8 d.1 * d.2)
      pkRowlen := BitVec.ofNat 32 (ceil8 d.1)
      pkW := BitVec.ofNat 32 d.1
      pkH := BitVec.ofNat 32 d.2
      packValid := true
      mem := { s.mem with
        pack := ⟨numberFrom 0 (packBytes d.1 d.2 (outCell o s.gridW.toNat s.gridH.toNat fun x y =>
          s.mem.grid.read (y * s.gridW.toNat + x))), s.draws⟩ }
      draws := s.draws + 1 }

/-- R180: PACK's acceptance checks, in order: GRID_VALID, then the size. -/
def Obligations.PackChecksInOrder : Prop :=
  ∀ (s : State) (i : Instr) (o : Orient),
    (i, o) ∈ [(Instr.packN, Orient.normal), (.packI, .invert), (.packL, .rotateLeft), (.packB, .rotateLeft),
      (.packR, .rotateRight)] →
    let d := outDims o s.gridW.toNat s.gridH.toNat
    s.seq = .idle →
    (s.gridValid = false → exec i s = .next (s.rejected .sequence 1)) ∧
    (s.gridValid = true → s.capPack.toNat < ceil8 d.1 * d.2 → exec i s = .next (s.rejected .capacity 3))

/-- R181: the packed bytes are RL * H' bytes; cell c of row r is bit 7 - (c mod 8) of byte r * RL + c div 8, and
every padding bit is 0. -/
def Obligations.RowsArePackedMsbFirst : Prop :=
  ∀ (w' h' : Nat) (o : Nat → Nat → Bool),
    (packBytes w' h' o).length = ceil8 w' * h' ∧
    ∀ r c, r < h' → c < 8 * ceil8 w' →
      ∃ b, (packBytes w' h' o)[r * ceil8 w' + c / 8]? = some b ∧
        b.getLsbD (7 - c % 8) = (decide (c < w') && o r c)

/-- R182, R183, R184, R186: the output dimensions and the cell function of the four orientations. -/
def Obligations.OrientationCellFunctions : Prop :=
  ∀ (w h : Nat) (g : Nat → Nat → Bool) (r c : Nat),
    (outDims .normal w h = (w, h) ∧ outCell .normal w h g r c = g c r) ∧
    (outDims .invert w h = (w, h) ∧ outCell .invert w h g r c = g (w - 1 - c) (h - 1 - r)) ∧
    (outDims .rotateLeft w h = (h, w) ∧ outCell .rotateLeft w h g r c = g (w - 1 - r) c) ∧
    (outDims .rotateRight w h = (h, w) ∧ outCell .rotateRight w h g r c = g r (h - 1 - c))

/-- R185: PACK.B is PACK.L. -/
def Obligations.PackBIsPackL : Prop :=
  ∀ s : State, s.seq = .idle → s.nextStall = 0 → exec .packB s = exec .packL s

/-- R188: Invert twice, and RotateLeft with RotateRight in either order, give the grid back; RotateLeft is
RotateRight of Invert and Invert of RotateRight. -/
def Obligations.OrientationsCompose : Prop :=
  ∀ (w h : Nat) (g : Nat → Nat → Bool) (x y : Nat),
    (x < w → y < h →
      turned .invert w h (turned .invert w h g) x y = g x y ∧
      turned .rotateRight h w (turned .rotateLeft w h g) x y = g x y ∧
      turned .rotateLeft h w (turned .rotateRight w h g) x y = g x y) ∧
    (x < h → y < w →
      turned .rotateLeft w h g x y = turned .rotateRight w h (turned .invert w h g) x y ∧
      turned .rotateLeft w h g x y = turned .invert h w (turned .rotateRight w h g) x y)

/-- R188: every orientation conserves the number of 1 cells. -/
def Obligations.OrientationsConserveInk : Prop :=
  ∀ (o : Orient) (w h : Nat) (g : Nat → Nat → Bool),
    inkCount (outDims o w h).1 (outDims o w h).2 (turned o w h g) = inkCount w h g

/-- R189: PACK reads only cells 0 .. w * h - 1: two blocks whose grids agree there get the same bytes. -/
def Obligations.PackReadsOnlyItsCells : Prop :=
  ∀ (s s' : State) (o : Orient), s.gridW = s'.gridW → s.gridH = s'.gridH →
    (∀ k, k < s.gridW.toNat * s.gridH.toNat → s.mem.grid.read k = s'.mem.grid.read k) →
    s.packResult o = s'.packResult o

/-- R190: LOAD.PACK checks the descriptors, then the size, and sets PACK_VALID; PACK and its descriptors are not
changed. -/
def Obligations.LoadPackChecksTheDescriptors : Prop :=
  ∀ s : State, s.seq = .idle →
    let good := s.pkRowlen.toNat = (s.pkW.toNat + 7) / 8 ∧ s.pkLen.toNat = s.pkRowlen.toNat * s.pkH.toNat
    (¬ good → exec .loadPack s = .next (s.rejected .badConfig 2)) ∧
    (good → s.capPack.toNat < s.pkLen.toNat → exec .loadPack s = .next (s.rejected .capacity 3)) ∧
    (good → s.pkLen.toNat ≤ s.capPack.toNat → s.nextStall = 0 →
      exec .loadPack s = .next { s.completed with packValid := true })

/-! ## Encoders -/

/-- R210, R216: ENC.Z64 of a valid bitmap: CRC_ERR cleared, DEFLATE called on PACK[0 .. PK_LEN-1]; the framed
payload in OUT with its checksum in crc_acc; or COMPRESSOR_FAILURE; or CAPACITY (4). It holds for every DEFLATE. -/
def Obligations.EncZ64WritesThePayload : Prop :=
  ∀ s : State, s.seq = .idle → s.nextStall = 0 → s.packValid = true →
    exec .encZ64 s = .next
      (match Config.deflate ((List.range s.pkLen.toNat).map s.mem.pack.read) with
      | none => { s.completed with
          err := .compressorFailure, errInfo := 0, crcErr := false, crcAcc := 0, outValid := false
          mem := { s.mem with out := ⟨[], s.draws⟩ }, draws := s.draws + 1 }
      | some d =>
        if s.capOut.toNat < 10 + (base64 d).length then { s.completed with
          err := .capacity, errInfo := 4, crcErr := false, crcAcc := 0, outValid := false
          mem := { s.mem with out := ⟨[], s.draws⟩ }, draws := s.draws + 1 }
        else { s.completed with
          crcErr := false, crcAcc := crc16 (base64 d), outValid := true
          outLen := BitVec.ofNat 32 (10 + (base64 d).length)
          mem := { s.mem with out := ⟨numberFrom 0 (z64Payload (base64 d)), s.draws⟩ }, draws := s.draws + 1 })

/-- R230, R234: ENC.ACS of a valid bitmap: the payload in OUT, or CAPACITY (4); crc_acc and CRC_ERR are not
changed. -/
def Obligations.EncAcsWritesThePayload : Prop :=
  ∀ s : State,
    let packed := (List.range s.pkLen.toNat).map s.mem.pack.read
    s.seq = .idle → s.nextStall = 0 → s.packValid = true →
    ((acsPayload packed).length ≤ s.capOut.toNat →
      exec .encAcs s = .next { s.completed with
        outValid := true
        outLen := BitVec.ofNat 32 (acsPayload packed).length
        mem := { s.mem with out := ⟨numberFrom 0 (acsPayload packed), s.draws⟩ }
        draws := s.draws + 1 }) ∧
    (s.capOut.toNat < (acsPayload packed).length →
      exec .encAcs s = .next { s.completed with
        err := .capacity
        errInfo := 4
        outValid := false
        mem := { s.mem with out := ⟨[], s.draws⟩ }
        draws := s.draws + 1 })

/-- R36, R210, R230: ENC without a valid bitmap is rejected with SEQUENCE (2), and nothing but the report changes. -/
def Obligations.EncNeedsAValidBitmap : Prop :=
  ∀ (s : State) (i : Instr), i ∈ [Instr.encZ64, .encAcs] → s.seq = .idle → s.packValid = false →
    exec i s = .next (s.rejected .sequence 2)

/-- R213, R214: the base64 text has 4 * ceil(n / 3) characters, and those of group `g` are ALPHA of the four 6-bit fields
of its 24 bits, with '=' for the fourth where the group has fewer than three bytes and for the third where it has one;
all of them are ASCII. The payload is the tag, the text, a colon and the text's four checksum digits, 10 characters
more than the text. -/
def Obligations.Z64PayloadIsFramed : Prop :=
  let alpha := "ABCDEFGHIJKLMNOPQRSTUVWXYZabcdefghijklmnopqrstuvwxyz0123456789+/".toList
  let char (n : Nat) : Byte := BitVec.ofNat 8 (alpha.getD n '=').toNat
  ∀ d : List Byte,
    (base64 d).length = 4 * ((d.length + 2) / 3) ∧
    (∀ g, 3 * g < d.length →
      let b (k : Nat) : Nat := (d.getD (3 * g + k) 0).toNat
      let v := b 0 * 2 ^ 16 + b 1 * 2 ^ 8 + b 2
      (base64 d)[4 * g]? = some (char (v / 2 ^ 18 % 64)) ∧
      (base64 d)[4 * g + 1]? = some (char (v / 2 ^ 12 % 64)) ∧
      (base64 d)[4 * g + 2]? = some (if 3 * g + 1 < d.length then char (v / 2 ^ 6 % 64) else 0x3D) ∧
      (base64 d)[4 * g + 3]? = some (if 3 * g + 2 < d.length then char (v % 64) else 0x3D)) ∧
    (∀ c ∈ base64 d, c.toNat < 128) ∧
    z64Payload (base64 d) =
      [0x3A, 0x5A, 0x36, 0x34, 0x3A] ++ base64 d ++ [0x3A] ++ hex4 (crc16 (base64 d)) ∧
    (z64Payload (base64 d)).length = 10 + (base64 d).length

/-- R213: two byte sequences with the same base64 text are the same. -/
def Obligations.Base64LosesNothing : Prop :=
  ∀ d d' : List Byte, base64 d = base64 d' → d = d'

/-- R47, R233: the markers of a run of L >= 3: `z` for each 400, then the letter of the multiple of 20 that is left, `g`
for 20 to `y` for 380, then the letter of what is left, `G` for 1 to `Y` for 19. All are markers, and their counts add
up to L. -/
def Obligations.AcsMarkersCountTheRun : Prop :=
  ∀ len : Nat, 3 ≤ len →
    acsCount len =
      List.replicate (len / 400) 0x7A ++
      (if len % 400 < 20 then [] else [BitVec.ofNat 8 (0x66 + len % 400 / 20)]) ++
      (if len % 20 = 0 then [] else [BitVec.ofNat 8 (0x46 + len % 20)]) ∧
    ∃ ks : List Nat, (acsCount len).map markerValue = ks.map some ∧ ks.sum = len

/-- R236: the ACS payload of any bytes decodes to their hex text. -/
def Obligations.AcsPayloadDecodesToTheHex : Prop :=
  ∀ bs : List Byte, acsDecode 0 (acsPayload bs) = hexText bs

/-- R231, R232, R234: the hexadecimal text of the bytes has one cut into maximal runs; in the payload a run of 3 or more
is replaced by its markers and one digit, and a run of 1 or 2 is copied. R235: so ACS never expands: at most two
characters a byte. -/
def Obligations.AcsNeverExpands : Prop :=
  ∀ bs : List Byte,
    isHexOf bs (hexText bs) ∧
    (∃! rs, maximalRuns (hexText bs) rs) ∧
    (∀ rs, maximalRuns (hexText bs) rs →
      acsPayload bs = rs.flatMap fun r => if 3 ≤ r.2 then acsCount r.2 ++ [r.1] else List.replicate r.2 r.1) ∧
    (acsPayload bs).length ≤ 2 * bs.length

/-! ## CONVERT and SOFT.RESET -/

/-- R110, R111: CONVERT.ACS with operands that pass its checks and a grid and a bitmap that fit: the grid, the bitmap of
that grid in the orientation, and its ACS payload, with all their descriptors and valid bits; or, where the payload does
not fit, CAPACITY (4) with the grid and the bitmap valid, OUT any value and OUT_LEN kept. crc_acc and CRC_ERR, and
everything else but the frame's registers, are not changed. A grid or a bitmap that does not fit:
`GridOverflowAborts`, `ConvertAbortsWhenThePackIsTooBig`. -/
def Obligations.ConvertAcsWritesAllThree : Prop :=
  ∀ (s : State) (i : Instr) (o : Orient) (rest : List Nat),
    (i, o) ∈ [(Instr.convertAcsN, Orient.normal), (.convertAcsI, .invert), (.convertAcsL, .rotateLeft),
      (.convertAcsB, .rotateLeft), (.convertAcsR, .rotateRight)] →
    let v := s.window
    let d := outDims o v.w v.h
    let bytes := packBytes d.1 d.2 (outCell o v.w v.h fun x y => s.inkAt (v.x0 + x) (v.y0 + y))
    let packed := { s with
      done := true, err := .none, errInfo := 0, empty := s.noInk
      gridValid := true, packValid := true
      gridW := BitVec.ofNat 32 v.w, gridH := BitVec.ofNat 32 v.h
      pkLen := BitVec.ofNat 32 (ceil8 d.1 * d.2), pkRowlen := BitVec.ofNat 32 (ceil8 d.1)
      pkW := BitVec.ofNat 32 d.1, pkH := BitVec.ofNat 32 d.2
      mem := { s.mem with
        grid := ⟨numberFrom 0 (windowCells v s.inkAt), s.draws⟩
        pack := ⟨numberFrom 0 bytes, s.draws + 1⟩ }
      stalls := rest, started := s.started + 3, draws := s.draws + 3 }
    s.seq = .idle → s.stalls = 0 :: 0 :: 0 :: rest → 0 < s.width.toInt → 1 ≤ s.black.toNat → s.black.toNat ≤ 99 →
    s.pixLen.toNat ≤ s.capPix.toNat → v.w * v.h ≤ s.capGrid.toNat → ceil8 d.1 * d.2 ≤ s.capPack.toNat →
    ((acsPayload bytes).length ≤ s.capOut.toNat →
      exec i s = .next { packed with
        outValid := true
        outLen := BitVec.ofNat 32 (acsPayload bytes).length
        mem := { packed.mem with out := ⟨numberFrom 0 (acsPayload bytes), s.draws + 2⟩ } }) ∧
    (s.capOut.toNat < (acsPayload bytes).length →
      exec i s = .next { packed with
        err := .capacity
        errInfo := 4
        outValid := false
        mem := { packed.mem with out := ⟨[], s.draws + 2⟩ } })

/-- R110: CONVERT.Z64 in the same way, for every DEFLATE: the grid and the bitmap stand, and the ENC stage ends with
the framed payload, or with COMPRESSOR_FAILURE, or with CAPACITY (4). -/
def Obligations.ConvertZ64WritesAllThree : Prop :=
  ∀ (s : State) (i : Instr) (o : Orient) (rest : List Nat),
    (i, o) ∈ [(Instr.convertZ64N, Orient.normal), (.convertZ64I, .invert), (.convertZ64L, .rotateLeft),
      (.convertZ64B, .rotateLeft), (.convertZ64R, .rotateRight)] →
    let v := s.window
    let d := outDims o v.w v.h
    let bytes := packBytes d.1 d.2 (outCell o v.w v.h fun x y => s.inkAt (v.x0 + x) (v.y0 + y))
    let packed := { s with
      done := true, err := .none, errInfo := 0, empty := s.noInk
      gridValid := true, packValid := true, outValid := false, crcErr := false, crcAcc := 0
      gridW := BitVec.ofNat 32 v.w, gridH := BitVec.ofNat 32 v.h
      pkLen := BitVec.ofNat 32 (ceil8 d.1 * d.2), pkRowlen := BitVec.ofNat 32 (ceil8 d.1)
      pkW := BitVec.ofNat 32 d.1, pkH := BitVec.ofNat 32 d.2
      mem := { s.mem with
        grid := ⟨numberFrom 0 (windowCells v s.inkAt), s.draws⟩
        pack := ⟨numberFrom 0 bytes, s.draws + 1⟩
        out := ⟨[], s.draws + 2⟩ }
      stalls := rest, started := s.started + 3, draws := s.draws + 3 }
    s.seq = .idle → s.stalls = 0 :: 0 :: 0 :: rest → 0 < s.width.toInt → 1 ≤ s.black.toNat → s.black.toNat ≤ 99 →
    s.pixLen.toNat ≤ s.capPix.toNat → v.w * v.h ≤ s.capGrid.toNat → ceil8 d.1 * d.2 ≤ s.capPack.toNat →
    exec i s = .next
      (match Config.deflate bytes with
      | none => { packed with err := .compressorFailure }
      | some z =>
        if s.capOut.toNat < 10 + (base64 z).length then { packed with err := .capacity, errInfo := 4 }
        else { packed with
          outValid := true, crcAcc := crc16 (base64 z), outLen := BitVec.ofNat 32 (10 + (base64 z).length)
          mem := { packed.mem with out := ⟨numberFrom 0 (z64Payload (base64 z)), s.draws + 2⟩ } })

/-- R104, R110: in CONVERT a bitmap that does not fit aborts with CAPACITY (3): the grid stands and is valid, PACK is
any value with PACK_VALID 0 and its descriptors kept, and the ENC stage does not run. A grid that does not fit:
`GridOverflowAborts`. -/
def Obligations.ConvertAbortsWhenThePackIsTooBig : Prop :=
  ∀ (s : State) (i : Instr) (o : Orient) (rest : List Nat),
    (i, o) ∈ [(Instr.convertZ64N, Orient.normal), (.convertZ64I, .invert), (.convertZ64L, .rotateLeft),
      (.convertZ64B, .rotateLeft), (.convertZ64R, .rotateRight), (.convertAcsN, .normal), (.convertAcsI, .invert),
      (.convertAcsL, .rotateLeft), (.convertAcsB, .rotateLeft), (.convertAcsR, .rotateRight)] →
    let v := s.window
    let d := outDims o v.w v.h
    s.seq = .idle → s.stalls = 0 :: 0 :: rest → 0 < s.width.toInt → 1 ≤ s.black.toNat →
    s.black.toNat ≤ 99 → s.pixLen.toNat ≤ s.capPix.toNat → v.w * v.h ≤ s.capGrid.toNat →
    s.capPack.toNat < ceil8 d.1 * d.2 →
    exec i s = .next { s with
      done := true, err := .capacity, errInfo := 3, empty := s.noInk
      gridValid := true, packValid := false
      gridW := BitVec.ofNat 32 v.w, gridH := BitVec.ofNat 32 v.h
      mem := { s.mem with
        grid := ⟨numberFrom 0 (windowCells v s.inkAt), s.draws⟩
        pack := ⟨[], s.draws + 1⟩ }
      stalls := rest, started := s.started + 2, draws := s.draws + 2 }

/-- R108, R110: CONVERT is THRESH, PACK and ENC, one after the other: where the three commands succeed one by one,
the one command reaches the same state. -/
def Obligations.ConvertEqualsThreeCommands : Prop :=
  ∀ (s t1 t2 t3 : State) (c p e : Instr) (rest : List Nat),
    (c, p, e) ∈ [(Instr.convertZ64N, Instr.packN, Instr.encZ64), (.convertZ64I, .packI, .encZ64),
      (.convertZ64L, .packL, .encZ64), (.convertZ64B, .packB, .encZ64), (.convertZ64R, .packR, .encZ64),
      (.convertAcsN, .packN, .encAcs), (.convertAcsI, .packI, .encAcs), (.convertAcsL, .packL, .encAcs),
      (.convertAcsB, .packB, .encAcs), (.convertAcsR, .packR, .encAcs)] →
    s.seq = .idle → s.stalls = 0 :: 0 :: 0 :: rest →
    exec .thresh s = .next t1 → t1.err = .none → exec p t1 = .next t2 → t2.err = .none →
    exec e t2 = .next t3 → t3.err = .none →
    exec c s = .next t3

/-- R112, R280, R281: SOFT.RESET at any time: every CSR and `seq` at its reset value, PIX kept, and each of GRID, PACK
and OUT kept unless the command it ends had it as a destination: such a one holds any value (a new draw, log 4).
Hardware reset has the same effect. -/
def Obligations.SoftResetKeepsOnlyTheBuffers : Prop :=
  ∀ s : State, ∃ t, exec .softReset s = .next t ∧
    t = { State.reset with
      capPix := s.capPix, capGrid := s.capGrid, capPack := s.capPack, capOut := s.capOut, mem := t.mem
      inputs := s.inputs, rdata := s.rdata, stalls := s.stalls, started := s.started, draws := t.draws } ∧
    t.mem.pix = s.mem.pix ∧
    (s.gridOpen = false → t.mem.grid = s.mem.grid) ∧
    (s.packOpen = false → t.mem.pack = s.mem.pack) ∧
    (s.outOpen = false → t.mem.out = s.mem.out) ∧
    (s.gridOpen = true → t.mem.grid.cells = [] ∧ s.draws ≤ t.mem.grid.epoch) ∧
    (s.packOpen = true → t.mem.pack.cells = [] ∧ s.draws ≤ t.mem.pack.epoch) ∧
    (s.outOpen = true → t.mem.out.cells = [] ∧ s.draws ≤ t.mem.out.epoch) ∧
    (s.seq = .idle → t.mem = s.mem) ∧
    ∀ rest, step { s with inputs := .hwReset :: rest } = exec .softReset { s with inputs := rest }

/-- R275, R280, R281: after hardware reset, at power-on or later, and after SOFT.RESET, every CSR reads its reset value,
`seq` is idle and `irq` is low. After the one at power-on every buffer holds any value (a new draw, log 3). -/
def Obligations.EveryResetSetsTheRegisters : Prop :=
  (∀ (s t : State) (rest : List Input),
    (exec .softReset s = .next t ∨ (s.inputs = .hwReset :: rest ∧ step s = .next t) ∨
      (s.inputs = .powerOn :: rest ∧ step s = .next t)) →
    t.seq = .idle ∧ t.irq = false ∧
    (∀ c ∈ [Csr.cmd, .status, .err, .errInfo, .irqEn, .width, .pixLen, .gridW, .gridH, .pkLen, .pkRowlen, .pkW, .pkH,
      .outLen, .crcData, .crcVal], t.readCsr c = 0) ∧
    t.readCsr .cfg = 0x00000032 ∧ t.readCsr .crcHex = 0x30303030 ∧
    t.readCsr .capPix = s.readCsr .capPix ∧ t.readCsr .capGrid = s.readCsr .capGrid ∧
    t.readCsr .capPack = s.readCsr .capPack ∧ t.readCsr .capOut = s.readCsr .capOut) ∧
  ∀ (s t : State) (rest : List Input), s.inputs = .powerOn :: rest → step s = .next t →
    (t.mem.pix.cells = [] ∧ s.draws ≤ t.mem.pix.epoch) ∧ (t.mem.grid.cells = [] ∧ s.draws ≤ t.mem.grid.epoch) ∧
    (t.mem.pack.cells = [] ∧ s.draws ≤ t.mem.pack.epoch) ∧ (t.mem.out.cells = [] ∧ s.draws ≤ t.mem.out.epoch)

/-! ## The command frame -/

/-- R101: after a command word that decodes is written to an idle block, STATUS shows BUSY = 1 and no error, or
DONE = 1 (SOFT.RESET apart). -/
def Obligations.CommandShowsBusyOrDone : Prop :=
  ∀ (i : Instr) (s t : State), portOf i = .cmd → i ≠ .softReset → s.seq = .idle → exec i s = .next t →
    ((t.readCsr .status).getLsbD 0 = true ∧ t.done = false ∧ t.err = .none ∧ t.errInfo = 0) ∨
    ((t.readCsr .status).getLsbD 0 = false ∧ (t.readCsr .status).getLsbD 1 = true)

/-- R64, R106: while BUSY = 1 a host store that the bus takes is dropped, with no effect but CONFLICT = 1, unless it
goes to STATUS or IRQ_EN or is SOFT.RESET, which are performed; and so is each instruction other than SOFT.RESET, and a
CMD word that does not decode. A store that the bus answers with BusError, one to OUT among them, is no dropped write.
This is the access itself; the step then counts it towards the command's duration (log 2). -/
def Obligations.BusyBlockDropsWrites : Prop :=
  ∀ s : State, s.seq ≠ .idle →
    (∀ i, i ≠ .softReset → exec i s = .next { s with conflict := true }) ∧
    (∀ wd, badCommand wd s = { s with conflict := true }) ∧
    (∀ (n : Width) (a v : Word) (p : Place), place s n a = .ok p →
      ((∀ i, p ≠ .out i) → p ≠ .csr .status → p ≠ .csr .irqEn → (p = .csr .cmd → v ≠ 0x000000FF) →
        stepStore n a v s = .next { s with conflict := true }) ∧
      (p = .csr .status → stepStore n a v s =
        .next { s with done := s.done && !v.getLsbD 1, conflict := s.conflict && !v.getLsbD 4 }) ∧
      (p = .csr .irqEn → stepStore n a v s = .next { s with doneIe := v.getLsbD 0 }) ∧
      (p = .csr .cmd → v = 0x000000FF → stepStore n a v s = exec .softReset s) ∧
      (∀ i, p = .out i → stepStore n a v s = .fault (.busError .outWrite a))) ∧
    ∀ (n : Width) (a v : Word) (e : BusError), place s n a = .error e → stepStore n a v s = .fault (.busError e a)

/-- R102, R107: while BUSY = 1 a load of STATUS, ERR, ERR_INFO, IRQ_EN, the CAP_ registers, WIDTH, PIX_LEN, CFG or PIX,
or of a buffer or descriptor register outside the command's destination, gives the current value, CMD and CRC_DATA
read 0, and a load of CRC_VAL, CRC_HEX or a part of the destination gives a free value (log 5). No load changes
anything else of the block. This is the access itself; the step then counts it (log 2). -/
def Obligations.BusyReads : Prop :=
  ∀ (s : State) (n : Width) (a : Word) (p : Place), s.seq ≠ .idle → place s n a = .ok p →
    ((∃ c ∈ [Csr.status, .err, .errInfo, .irqEn, .capPix, .capGrid, .capPack, .capOut, .width, .pixLen, .cfg],
          p = .csr c) ∨
        (∃ i, p = .pix i) ∨
        (s.gridOpen = false ∧ (p = .csr .gridW ∨ p = .csr .gridH ∨ ∃ i, p = .grid i)) ∨
        (s.packOpen = false ∧
          (p = .csr .pkLen ∨ p = .csr .pkRowlen ∨ p = .csr .pkW ∨ p = .csr .pkH ∨ ∃ i, p = .pack i)) ∨
        (s.outOpen = false ∧ (p = .csr .outLen ∨ ∃ i, p = .out i)) →
      ∃ d, stepLoad n a s = .next { s with rdata := d } ∧ s.hostReads n.bytes p d) ∧
    (p = .csr .cmd ∨ p = .csr .crcData → stepLoad n a s = .next { s with rdata := 0 }) ∧
    (p = .csr .crcVal ∨ p = .csr .crcHex ∨
        (s.gridOpen = true ∧ (p = .csr .gridW ∨ p = .csr .gridH ∨ ∃ i, p = .grid i)) ∨
        (s.packOpen = true ∧
          (p = .csr .pkLen ∨ p = .csr .pkRowlen ∨ p = .csr .pkW ∨ p = .csr .pkH ∨ ∃ i, p = .pack i)) ∨
        (s.outOpen = true ∧ (p = .csr .outLen ∨ ∃ i, p = .out i)) →
      stepLoad n a s =
        .next { s with rdata := ofBytes (bytesOf n.bytes (Config.anyWord s.draws)), draws := s.draws + 1 })

/-- R102: whatever its duration, an instruction other than SOFT.RESET changes nothing outside its destination but
STATUS, ERR and ERR_INFO: the host's registers, PIX, the constants and what stands outside the block always stay,
and so do GRID, PACK, OUT, crc_acc and their registers unless it is a command that writes them. R106: CONFLICT is kept
on an idle block, and on a busy block the instruction, which is dropped, sets it. -/
def Obligations.InstructionsKeepWhatTheyDoNotOwn : Prop :=
  ∀ (i : Instr) (s t : State), i ≠ .softReset → exec i s = .next t →
    (s.seq = .idle → t.conflict = s.conflict) ∧
    (s.seq ≠ .idle → t.conflict = true) ∧
    (t.width = s.width ∧ t.pixLen = s.pixLen ∧ t.black = s.black ∧ t.notrim = s.notrim ∧ t.doneIe = s.doneIe ∧
      t.mem.pix = s.mem.pix ∧ t.capPix = s.capPix ∧ t.capGrid = s.capGrid ∧ t.capPack = s.capPack ∧
      t.capOut = s.capOut ∧ t.inputs = s.inputs ∧ t.rdata = s.rdata) ∧
    (Stage.thresh ∉ stagesOf i → t.mem.grid = s.mem.grid ∧ t.gridW = s.gridW ∧ t.gridH = s.gridH ∧
      t.empty = s.empty ∧ (i ≠ .loadGrid → t.gridValid = s.gridValid)) ∧
    ((∀ o, Stage.pack o ∉ stagesOf i) → t.mem.pack = s.mem.pack ∧ t.pkLen = s.pkLen ∧ t.pkRowlen = s.pkRowlen ∧
      t.pkW = s.pkW ∧ t.pkH = s.pkH ∧ (i ≠ .loadPack → t.packValid = s.packValid)) ∧
    ((∀ f, Stage.enc f ∉ stagesOf i) → t.mem.out = s.mem.out ∧ t.outLen = s.outLen ∧ t.outValid = s.outValid) ∧
    (i ≠ .crcInit → Stage.enc .z64 ∉ stagesOf i → (∀ v, i ≠ .crcFeed v) →
      t.crcAcc = s.crcAcc ∧ t.crcErr = s.crcErr)

/-- R291: two idle blocks that differ only in how long the stages will take reach the same state once the command
has run to its end. The times are the model's counts of host accesses (log 2). -/
def Obligations.DurationDoesNotChangeTheResult : Prop :=
  ∀ (i : Instr) (s t t' : State) (l : List Nat), s.seq = .idle →
    exec i s = .next t → exec i { s with stalls := l } = .next t' →
    { drain t with stalls := [] } = { drain t' with stalls := [] } ∧ (drain t).seq = .idle

/-- R91, R291: WAIT ends. The bound is the model's choice: a step at WAIT ends the stage in progress whatever its count
(log 11), so from a running command, which has at most three stages left, within four steps the host has read STATUS
with BUSY = 0 and goes on. -/
def Obligations.WaitEnds : Prop :=
  ∀ (s : State) (rest : List Input), s.seqOk = true → s.inputs = .host .wait :: rest →
    ∃ n t, n ≤ 4 ∧ Host.Core.run Sys2Proof.core n s = .next t ∧ t.inputs = rest ∧ t.seq = .idle ∧
      t.rdata = t.readCsr .status ∧ t.rdata.getLsbD 0 = false

/-- R106, R290: a host that obeys the busy window never sees CONFLICT: from a state with CONFLICT = 0 whose program
obeys it, every next state is such a state again. -/
def Obligations.HazardFreeHostSeesNoConflict : Prop :=
  ∀ s t : State, s.conflict = false → obeysHazards s.busy s.inputs = true → step s = .next t →
    t.conflict = false ∧ obeysHazards t.busy t.inputs = true

/-! ## Host bus -/

/-- R60, R63, R64: a host access answers BusError exactly when its address is misaligned, unmapped or an unassigned
CSR offset, when it is a CSR access that is not 32 bits wide, or when it writes OUT. R23, R60: where every other access
goes: the CSR at that offset, or byte `i` of the buffer at its base plus `i`. -/
def Obligations.BusErrorsAreExactlyTheListed : Prop :=
  ∀ (s : State) (n : Width) (a v : Word), s.capsOk = true →
    let at_ := a.toNat
    let mapped (base size : Nat) : Prop := base ≤ at_ ∧ at_ + n.bytes ≤ base + size
    let bad : Prop := at_ % n.bytes ≠ 0 ∨ (at_ < 0x1000 ∧ (n ≠ .word ∨ 0x058 ≤ at_)) ∨
      (0x1000 ≤ at_ ∧ ¬ mapped 0x10000000 s.capPix.toNat ∧ ¬ mapped 0x20000000 (s.capGrid.toNat / 8) ∧
        ¬ mapped 0x30000000 s.capPack.toNat ∧ ¬ mapped 0x40000000 s.capOut.toNat)
    ((∃ e, stepLoad n a s = .fault e) ↔ bad) ∧
    ((∃ e, stepStore n a v s = .fault e) ↔ bad ∨ mapped 0x40000000 s.capOut.toNat) ∧
    ∀ p, place s n a = .ok p ↔
      at_ % n.bytes = 0 ∧
      match p with
      | .pix i => at_ = 0x10000000 + i ∧ mapped 0x10000000 s.capPix.toNat
      | .grid i => at_ = 0x20000000 + i ∧ mapped 0x20000000 (s.capGrid.toNat / 8)
      | .pack i => at_ = 0x30000000 + i ∧ mapped 0x30000000 s.capPack.toNat
      | .out i => at_ = 0x40000000 + i ∧ mapped 0x40000000 s.capOut.toNat
      | .csr c => n = .word ∧ at_ = match c with
        | .cmd => 0x000
        | .status => 0x004
        | .err => 0x008
        | .errInfo => 0x00C
        | .irqEn => 0x010
        | .width => 0x014
        | .pixLen => 0x018
        | .cfg => 0x01C
        | .gridW => 0x020
        | .gridH => 0x024
        | .pkLen => 0x028
        | .pkRowlen => 0x02C
        | .pkW => 0x030
        | .pkH => 0x034
        | .outLen => 0x038
        | .crcData => 0x03C
        | .crcVal => 0x040
        | .crcHex => 0x044
        | .capPix => 0x048
        | .capGrid => 0x04C
        | .capPack => 0x050
        | .capOut => 0x054

/-- R23, R41, R43, R60 to R63, R66, R250: on an idle block, a host store to PIX, GRID or PACK puts byte `k` of the data,
its bits 8 k + 7 to 8 k, into byte `i + k` of the buffer, in GRID the cell `8 (i + k) + j` at bit `7 - j` of it; a load
of the same address and width reads back the low bytes of the data. The store leaves every other element of the four
buffers and every register as it was, save the buffer's valid bit (R36), and the load leaves everything as it was.
A load of any place, OUT and whatever a command wrote included, gives the current bytes, little-endian (`hostReads`);
a load of a CSR reads its register. What has been read stands in `rdata` (log 10). -/
def Obligations.LoadReadsWhatTheStoreWrote : Prop :=
  (∀ (s : State) (n : Width) (a v : Word) (p : Place) (i : Nat), s.seq = .idle → place s n a = .ok p →
    p = .pix i ∨ p = .grid i ∨ p = .pack i →
    ∃ t u, stepStore n a v s = .next t ∧ stepLoad n a t = .next u ∧
      u.rdata.toNat = v.toNat % 2 ^ (8 * n.bytes) ∧
      u = { t with rdata := u.rdata } ∧
      t = { s with
        mem := t.mem
        gridValid := s.gridValid && decide (p ≠ .grid i)
        packValid := s.packValid && decide (p ≠ .pack i) } ∧
      (∀ k, (p = .pix i → k < i ∨ i + n.bytes ≤ k) → t.mem.pix.read k = s.mem.pix.read k) ∧
      (∀ k, (p = .grid i → k < 8 * i ∨ 8 * (i + n.bytes) ≤ k) → t.mem.grid.read k = s.mem.grid.read k) ∧
      (∀ k, (p = .pack i → k < i ∨ i + n.bytes ≤ k) → t.mem.pack.read k = s.mem.pack.read k) ∧
      t.mem.out = s.mem.out ∧
      ∀ k, k < n.bytes →
        (p = .pix i → t.mem.pix.read (i + k) = v.extractLsb' (8 * k) 8) ∧
        (p = .grid i → ∀ j, j < 8 → t.mem.grid.read (8 * (i + k) + j) = v.getLsbD (8 * k + (7 - j))) ∧
        (p = .pack i → t.mem.pack.read (i + k) = v.extractLsb' (8 * k) 8)) ∧
  (∀ (s : State) (n : Width) (a : Word) (p : Place), s.seq = .idle → place s n a = .ok p →
    ∃ d, stepLoad n a s = .next { s with rdata := d } ∧ s.hostReads n.bytes p d) ∧
  ∀ (s : State) (c : Csr), s.seq = .idle →
    stepLoad .word c.offset s = .next { s with
      rdata := match c with
        | .cmd | .crcData => 0
        | .status => s.readCsr .status
        | .err => match s.err with
          | .none => 0x00
          | .invalidWidth => 0x01
          | .charOutOfRange => 0x02
          | .compressorFailure => 0x03
          | .badCommand => 0x04
          | .badConfig => 0x05
          | .sequence => 0x06
          | .capacity => 0x07
        | .errInfo => s.errInfo
        | .irqEn => if s.doneIe then 1 else 0
        | .width => s.width
        | .pixLen => s.pixLen
        | .cfg => s.readCsr .cfg
        | .gridW => s.gridW
        | .gridH => s.gridH
        | .pkLen => s.pkLen
        | .pkRowlen => s.pkRowlen
        | .pkW => s.pkW
        | .pkH => s.pkH
        | .outLen => s.outLen
        | .crcVal => s.crcAcc.zeroExtend 32
        | .crcHex => s.readCsr .crcHex
        | .capPix => s.capPix
        | .capGrid => s.capGrid
        | .capPack => s.capPack
        | .capOut => s.capOut }

/-- R24, R27 to R33, R36, R38, R66: on an idle block, what a host write does to the registers. A write to GRID, GRID_W
or GRID_H clears GRID_VALID, a write to PACK or a PK_ register clears PACK_VALID, and no plain write touches another
valid bit. For each CSR but the two ports, the state that the write gives, which says that nothing else changes: an RW
register stores the word, STATUS clears DONE and CONFLICT, IRQ_EN and CFG store their fields, and a write to an RO
register is ignored. -/
def Obligations.HostWritesInvalidate : Prop :=
  (∀ (s : State) (n : Nat) (p : Place) (v : Word), s.seq = .idle →
    let t := writePlace n p v s
    (t.gridValid = true ↔
      s.gridValid = true ∧ ¬ (p = .csr .gridW ∨ p = .csr .gridH ∨ ∃ i, p = .grid i)) ∧
    (t.packValid = true ↔
      s.packValid = true ∧
        ¬ (p = .csr .pkLen ∨ p = .csr .pkRowlen ∨ p = .csr .pkW ∨ p = .csr .pkH ∨ ∃ i, p = .pack i)) ∧
    t.outValid = s.outValid) ∧
  ∀ (s : State) (c : Csr) (v : Word), s.seq = .idle → c ≠ .cmd → c ≠ .crcData →
    let t : State :=
      match c with
      | .status => { s with done := s.done && !v.getLsbD 1, conflict := s.conflict && !v.getLsbD 4 }
      | .irqEn => { s with doneIe := v.getLsbD 0 }
      | .width => { s with width := v }
      | .pixLen => { s with pixLen := v }
      | .cfg => { s with black := v.extractLsb' 0 7, notrim := v.getLsbD 8 }
      | .gridW => { s with gridW := v, gridValid := false }
      | .gridH => { s with gridH := v, gridValid := false }
      | .pkLen => { s with pkLen := v, packValid := false }
      | .pkRowlen => { s with pkRowlen := v, packValid := false }
      | .pkW => { s with pkW := v, packValid := false }
      | .pkH => { s with pkH := v, packValid := false }
      | .err | .errInfo | .outLen | .crcVal | .crcHex | .capPix | .capGrid | .capPack | .capOut => s
      | .cmd | .crcData => s
    writePlace 4 (.csr c) v s = t ∧ stepStore .word c.offset v s = .next t

/-- R24: the bits of STATUS, each from its field, and 0 at every other place. -/
def Obligations.StatusBits : Prop :=
  ∀ (s : State) (k : Nat),
    (s.readCsr .status).getLsbD k =
      match k with
      | 0 => decide (s.seq ≠ .idle)
      | 1 => s.done
      | 2 => decide (s.err ≠ .none)
      | 3 => s.empty
      | 4 => s.conflict
      | 5 => s.crcErr
      | 8 => s.gridValid
      | 9 => s.packValid
      | 10 => s.outValid
      | _ => false

/-- R27: CFG stores BLACK and NOTRIM and reads 0 elsewhere, and a write to it changes nothing else. -/
def Obligations.CfgKeepsItsFields : Prop :=
  ∀ (s : State) (v : Word),
    (s.writeCsr v .cfg).readCsr .cfg = v &&& 0x0000017F ∧
    s.writeCsr v .cfg = { s with black := (s.writeCsr v .cfg).black, notrim := (s.writeCsr v .cfg).notrim }

/-- R262: `irq` is DONE and DONE_IE: when a command written to an idle block has completed the line is high exactly if
DONE_IE = 1, and a write of 1 to STATUS bit 1, or of 0 to IRQ_EN, lowers it. -/
def Obligations.InterruptFollowsCompletion : Prop :=
  (∀ (i : Instr) (s t : State), portOf i = .cmd → i ≠ .softReset → s.seq = .idle → exec i s = .next t →
    t.irq = (decide (t.seq = .idle) && s.doneIe)) ∧
  (∀ (s : State) (v : Word), v.getLsbD 1 = true → (s.writeCsr v .status).irq = false) ∧
  (∀ (s : State) (v : Word), v.getLsbD 0 = false → (s.writeCsr v .irqEn).irq = false)

/-! ## Invariants -/

/-- R67: every step keeps memory in its canonical form, with no element at or beyond a capacity. -/
def Obligations.StepKeepsMemoryCanonical : Prop :=
  ∀ s t : State, s.memOk = true → step s = .next t → t.memOk = true

/-- R36: every step keeps what the three valid bits promise of their descriptors; the premise that the sequencer is
legal is `StepKeepsTheSequencerLegal`'s own invariant. -/
def Obligations.StepKeepsValidBitsHonest : Prop :=
  ∀ s t : State, s.seqOk = true → s.validOk = true → step s = .next t → t.validOk = true

/-- R251, R100, R105: every step keeps ERR_INFO = 0 where ERR = 0, and DONE = 0 and ERR = 0 while BUSY = 1. -/
def Obligations.StepKeepsTheReportConsistent : Prop :=
  ∀ s t : State, s.reportOk = true → step s = .next t → t.reportOk = true

/-- R48, R111: every step keeps the running stages the last of their command, with a valid operand for a PACK or ENC
stage. -/
def Obligations.StepKeepsTheSequencerLegal : Prop :=
  ∀ s t : State, s.seqOk = true → step s = .next t → t.seqOk = true

/-- R38: no step changes a CAP_ register. -/
def Obligations.StepKeepsTheCapacities : Prop :=
  ∀ s t : State, step s = .next t →
    t.capPix = s.capPix ∧ t.capGrid = s.capGrid ∧ t.capPack = s.capPack ∧ t.capOut = s.capOut

/-- R8, R280: at reset every invariant holds, the capacities are legal and equal to the parameters. -/
def Obligations.ResetMeetsTheInvariants : Prop :=
  State.reset.memOk = true ∧ State.reset.validOk = true ∧ State.reset.reportOk = true ∧
  State.reset.seqOk = true ∧ State.reset.capsOk = true ∧
  State.reset.capPix.toNat = Config.pixBytes ∧ State.reset.capGrid.toNat = Config.gridBits ∧
  State.reset.capPack.toNat = Config.packBytes ∧ State.reset.capOut.toNat = Config.outBytes
end

