-- ==== Sys2Proof/Laws/Cells.lean ====
section
/-! SUPPORT. The laws of listings: a read after a write, and that every operation keeps the canonical form and the
bound on the indices. -/

namespace Sys2Proof.Machine

variable {α : Type}

@[simp] theorem lookupCell_nil (i : Nat) : lookupCell i ([] : List (Nat × α)) = none := rfl

theorem lookupCell_cons (i j : Nat) (v : α) (r : List (Nat × α)) :
    lookupCell i ((j, v) :: r) = if i = j then some v else lookupCell i r := rfl

@[simp] theorem lookupCell_insertCell_same (i : Nat) (v : α) (l : List (Nat × α)) :
    lookupCell i (insertCell i v l) = some v := by
  induction l with
  | nil => simp [insertCell, lookupCell]
  | cons c r ih =>
    obtain ⟨j, w⟩ := c
    simp only [insertCell]
    split
    · simp [lookupCell]
    · split
      · simp [lookupCell]
      · simp [lookupCell, *]

theorem lookupCell_insertCell_other {i k : Nat} (h : k ≠ i) (v : α) (l : List (Nat × α)) :
    lookupCell k (insertCell i v l) = lookupCell k l := by
  induction l with
  | nil => simp [insertCell, lookupCell, h]
  | cons c r ih =>
    obtain ⟨j, w⟩ := c
    simp only [insertCell]
    split
    · simp [lookupCell, h]
    · split
      · next e => subst e; simp [lookupCell, h]
      · simp [lookupCell, ih]

/-- A numbered list lists each of its values at its place, and nothing else. -/
theorem lookupCell_numberFrom (l : List α) (i k : Nat) :
    lookupCell k (numberFrom i l) = if i ≤ k then l[k - i]? else none := by
  induction l generalizing i with
  | nil => simp [numberFrom]
  | cons v r ih =>
    simp only [numberFrom, lookupCell, ih]
    rcases Nat.lt_trichotomy k i with h | h | h
    · simp [Nat.ne_of_lt h, Nat.not_le.mpr h, show ¬ i + 1 ≤ k by omega]
    · simp [h]
    · have e : k - i = (k - (i + 1)) + 1 := by omega
      simp [Nat.ne_of_gt h, Nat.le_of_lt h, show i + 1 ≤ k by omega, e]

@[simp] theorem length_numberFrom (l : List α) (i : Nat) : (numberFrom i l).length = l.length := by
  induction l generalizing i with
  | nil => rfl
  | cons _ _ ih => simp [numberFrom, ih]

@[simp] theorem rising_nil : rising ([] : List (Nat × α)) = true := rfl

theorem rising_tail {c : Nat × α} {r : List (Nat × α)} (h : rising (c :: r) = true) : rising r = true := by
  cases r with
  | nil => rfl
  | cons d r => simp [rising] at h; exact h.2

/-- What stands at the head of a rising list after an insertion. -/
theorem insertCell_head (i : Nat) (v : α) (l : List (Nat × α)) :
    ∃ c r, insertCell i v l = c :: r ∧ (c.1 = i ∨ ∃ d r', l = d :: r' ∧ c.1 = d.1) := by
  cases l with
  | nil => exact ⟨_, _, rfl, .inl rfl⟩
  | cons d r =>
    obtain ⟨j, w⟩ := d
    simp only [insertCell]
    split
    · exact ⟨_, _, rfl, .inl rfl⟩
    · split
      · exact ⟨_, _, rfl, .inl rfl⟩
      · exact ⟨_, _, rfl, .inr ⟨_, _, rfl, rfl⟩⟩

/-- An insertion keeps the canonical form. -/
theorem rising_insertCell (i : Nat) (v : α) {l : List (Nat × α)} (h : rising l = true) :
    rising (insertCell i v l) = true := by
  induction l with
  | nil => rfl
  | cons d r ih =>
    obtain ⟨j, w⟩ := d
    simp only [insertCell]
    split
    · simp_all [rising]
    · split
      · next e => subst e; cases r <;> simp_all [rising]
      · have hr := ih (rising_tail h)
        obtain ⟨c, r', e, hc⟩ := insertCell_head i v r
        rw [e] at hr ⊢
        simp only [rising, Bool.and_eq_true, decide_eq_true_eq]
        refine ⟨?_, hr⟩
        rcases hc with hc | ⟨d, r'', hd, hc⟩
        · omega
        · subst hd; simp [rising] at h; omega

/-- A numbered list is in canonical form. -/
theorem rising_numberFrom (l : List α) (i : Nat) : rising (numberFrom i l) = true := by
  induction l generalizing i with
  | nil => rfl
  | cons v r ih =>
    cases r with
    | nil => rfl
    | cons w r => have := ih (i + 1); simp_all [numberFrom, rising]

@[simp] theorem below_nil (n : Nat) : below n ([] : List (Nat × α)) = true := rfl

@[simp] theorem below_cons (n : Nat) (c : Nat × α) (l : List (Nat × α)) :
    below n (c :: l) = (decide (c.1 < n) && below n l) := rfl

theorem below_insertCell {n i : Nat} (hi : i < n) (v : α) {l : List (Nat × α)} (h : below n l = true) :
    below n (insertCell i v l) = true := by
  induction l with
  | nil => simp [insertCell, hi]
  | cons d r ih =>
    obtain ⟨j, w⟩ := d
    simp only [insertCell]
    split
    · simp_all
    · split
      · simp_all
      · simp_all

theorem below_numberFrom (l : List α) {i n : Nat} (h : i + l.length ≤ n) : below n (numberFrom i l) = true := by
  induction l generalizing i with
  | nil => rfl
  | cons v r ih =>
    have := @ih (i + 1) (by simp at h; omega)
    simp only [List.length_cons] at h
    simp [numberFrom, this, show i < n by omega]

end Sys2Proof.Machine
end

