-- ==== Sys2Proof/Laws/State.lean ====
section
/-! SUPPORT. One lemma per field per named update of the state, so that no proof unfolds a record update. -/

namespace Sys2Proof.Machine

variable (s : State)

/-! ### State.setPix -/

@[simp] theorem setPix_done (b : ByteBuf) : (s.setPix b).done = s.done := rfl
@[simp] theorem setPix_empty (b : ByteBuf) : (s.setPix b).empty = s.empty := rfl
@[simp] theorem setPix_conflict (b : ByteBuf) : (s.setPix b).conflict = s.conflict := rfl
@[simp] theorem setPix_crcErr (b : ByteBuf) : (s.setPix b).crcErr = s.crcErr := rfl
@[simp] theorem setPix_gridValid (b : ByteBuf) : (s.setPix b).gridValid = s.gridValid := rfl
@[simp] theorem setPix_packValid (b : ByteBuf) : (s.setPix b).packValid = s.packValid := rfl
@[simp] theorem setPix_outValid (b : ByteBuf) : (s.setPix b).outValid = s.outValid := rfl
@[simp] theorem setPix_err (b : ByteBuf) : (s.setPix b).err = s.err := rfl
@[simp] theorem setPix_errInfo (b : ByteBuf) : (s.setPix b).errInfo = s.errInfo := rfl
@[simp] theorem setPix_doneIe (b : ByteBuf) : (s.setPix b).doneIe = s.doneIe := rfl
@[simp] theorem setPix_width (b : ByteBuf) : (s.setPix b).width = s.width := rfl
@[simp] theorem setPix_pixLen (b : ByteBuf) : (s.setPix b).pixLen = s.pixLen := rfl
@[simp] theorem setPix_black (b : ByteBuf) : (s.setPix b).black = s.black := rfl
@[simp] theorem setPix_notrim (b : ByteBuf) : (s.setPix b).notrim = s.notrim := rfl
@[simp] theorem setPix_gridW (b : ByteBuf) : (s.setPix b).gridW = s.gridW := rfl
@[simp] theorem setPix_gridH (b : ByteBuf) : (s.setPix b).gridH = s.gridH := rfl
@[simp] theorem setPix_pkLen (b : ByteBuf) : (s.setPix b).pkLen = s.pkLen := rfl
@[simp] theorem setPix_pkRowlen (b : ByteBuf) : (s.setPix b).pkRowlen = s.pkRowlen := rfl
@[simp] theorem setPix_pkW (b : ByteBuf) : (s.setPix b).pkW = s.pkW := rfl
@[simp] theorem setPix_pkH (b : ByteBuf) : (s.setPix b).pkH = s.pkH := rfl
@[simp] theorem setPix_outLen (b : ByteBuf) : (s.setPix b).outLen = s.outLen := rfl
@[simp] theorem setPix_crcAcc (b : ByteBuf) : (s.setPix b).crcAcc = s.crcAcc := rfl
@[simp] theorem setPix_capPix (b : ByteBuf) : (s.setPix b).capPix = s.capPix := rfl
@[simp] theorem setPix_capGrid (b : ByteBuf) : (s.setPix b).capGrid = s.capGrid := rfl
@[simp] theorem setPix_capPack (b : ByteBuf) : (s.setPix b).capPack = s.capPack := rfl
@[simp] theorem setPix_capOut (b : ByteBuf) : (s.setPix b).capOut = s.capOut := rfl
@[simp] theorem setPix_mem (b : ByteBuf) : (s.setPix b).mem = { s.mem with pix := b } := rfl
@[simp] theorem setPix_seq (b : ByteBuf) : (s.setPix b).seq = s.seq := rfl
@[simp] theorem setPix_inputs (b : ByteBuf) : (s.setPix b).inputs = s.inputs := rfl
@[simp] theorem setPix_rdata (b : ByteBuf) : (s.setPix b).rdata = s.rdata := rfl
@[simp] theorem setPix_stalls (b : ByteBuf) : (s.setPix b).stalls = s.stalls := rfl
@[simp] theorem setPix_started (b : ByteBuf) : (s.setPix b).started = s.started := rfl
@[simp] theorem setPix_draws (b : ByteBuf) : (s.setPix b).draws = s.draws := rfl

/-! ### State.setGrid -/

@[simp] theorem setGrid_done (b : BitBuf) : (s.setGrid b).done = s.done := rfl
@[simp] theorem setGrid_empty (b : BitBuf) : (s.setGrid b).empty = s.empty := rfl
@[simp] theorem setGrid_conflict (b : BitBuf) : (s.setGrid b).conflict = s.conflict := rfl
@[simp] theorem setGrid_crcErr (b : BitBuf) : (s.setGrid b).crcErr = s.crcErr := rfl
@[simp] theorem setGrid_gridValid (b : BitBuf) : (s.setGrid b).gridValid = s.gridValid := rfl
@[simp] theorem setGrid_packValid (b : BitBuf) : (s.setGrid b).packValid = s.packValid := rfl
@[simp] theorem setGrid_outValid (b : BitBuf) : (s.setGrid b).outValid = s.outValid := rfl
@[simp] theorem setGrid_err (b : BitBuf) : (s.setGrid b).err = s.err := rfl
@[simp] theorem setGrid_errInfo (b : BitBuf) : (s.setGrid b).errInfo = s.errInfo := rfl
@[simp] theorem setGrid_doneIe (b : BitBuf) : (s.setGrid b).doneIe = s.doneIe := rfl
@[simp] theorem setGrid_width (b : BitBuf) : (s.setGrid b).width = s.width := rfl
@[simp] theorem setGrid_pixLen (b : BitBuf) : (s.setGrid b).pixLen = s.pixLen := rfl
@[simp] theorem setGrid_black (b : BitBuf) : (s.setGrid b).black = s.black := rfl
@[simp] theorem setGrid_notrim (b : BitBuf) : (s.setGrid b).notrim = s.notrim := rfl
@[simp] theorem setGrid_gridW (b : BitBuf) : (s.setGrid b).gridW = s.gridW := rfl
@[simp] theorem setGrid_gridH (b : BitBuf) : (s.setGrid b).gridH = s.gridH := rfl
@[simp] theorem setGrid_pkLen (b : BitBuf) : (s.setGrid b).pkLen = s.pkLen := rfl
@[simp] theorem setGrid_pkRowlen (b : BitBuf) : (s.setGrid b).pkRowlen = s.pkRowlen := rfl
@[simp] theorem setGrid_pkW (b : BitBuf) : (s.setGrid b).pkW = s.pkW := rfl
@[simp] theorem setGrid_pkH (b : BitBuf) : (s.setGrid b).pkH = s.pkH := rfl
@[simp] theorem setGrid_outLen (b : BitBuf) : (s.setGrid b).outLen = s.outLen := rfl
@[simp] theorem setGrid_crcAcc (b : BitBuf) : (s.setGrid b).crcAcc = s.crcAcc := rfl
@[simp] theorem setGrid_capPix (b : BitBuf) : (s.setGrid b).capPix = s.capPix := rfl
@[simp] theorem setGrid_capGrid (b : BitBuf) : (s.setGrid b).capGrid = s.capGrid := rfl
@[simp] theorem setGrid_capPack (b : BitBuf) : (s.setGrid b).capPack = s.capPack := rfl
@[simp] theorem setGrid_capOut (b : BitBuf) : (s.setGrid b).capOut = s.capOut := rfl
@[simp] theorem setGrid_mem (b : BitBuf) : (s.setGrid b).mem = { s.mem with grid := b } := rfl
@[simp] theorem setGrid_seq (b : BitBuf) : (s.setGrid b).seq = s.seq := rfl
@[simp] theorem setGrid_inputs (b : BitBuf) : (s.setGrid b).inputs = s.inputs := rfl
@[simp] theorem setGrid_rdata (b : BitBuf) : (s.setGrid b).rdata = s.rdata := rfl
@[simp] theorem setGrid_stalls (b : BitBuf) : (s.setGrid b).stalls = s.stalls := rfl
@[simp] theorem setGrid_started (b : BitBuf) : (s.setGrid b).started = s.started := rfl
@[simp] theorem setGrid_draws (b : BitBuf) : (s.setGrid b).draws = s.draws := rfl

/-! ### State.setPack -/

@[simp] theorem setPack_done (b : ByteBuf) : (s.setPack b).done = s.done := rfl
@[simp] theorem setPack_empty (b : ByteBuf) : (s.setPack b).empty = s.empty := rfl
@[simp] theorem setPack_conflict (b : ByteBuf) : (s.setPack b).conflict = s.conflict := rfl
@[simp] theorem setPack_crcErr (b : ByteBuf) : (s.setPack b).crcErr = s.crcErr := rfl
@[simp] theorem setPack_gridValid (b : ByteBuf) : (s.setPack b).gridValid = s.gridValid := rfl
@[simp] theorem setPack_packValid (b : ByteBuf) : (s.setPack b).packValid = s.packValid := rfl
@[simp] theorem setPack_outValid (b : ByteBuf) : (s.setPack b).outValid = s.outValid := rfl
@[simp] theorem setPack_err (b : ByteBuf) : (s.setPack b).err = s.err := rfl
@[simp] theorem setPack_errInfo (b : ByteBuf) : (s.setPack b).errInfo = s.errInfo := rfl
@[simp] theorem setPack_doneIe (b : ByteBuf) : (s.setPack b).doneIe = s.doneIe := rfl
@[simp] theorem setPack_width (b : ByteBuf) : (s.setPack b).width = s.width := rfl
@[simp] theorem setPack_pixLen (b : ByteBuf) : (s.setPack b).pixLen = s.pixLen := rfl
@[simp] theorem setPack_black (b : ByteBuf) : (s.setPack b).black = s.black := rfl
@[simp] theorem setPack_notrim (b : ByteBuf) : (s.setPack b).notrim = s.notrim := rfl
@[simp] theorem setPack_gridW (b : ByteBuf) : (s.setPack b).gridW = s.gridW := rfl
@[simp] theorem setPack_gridH (b : ByteBuf) : (s.setPack b).gridH = s.gridH := rfl
@[simp] theorem setPack_pkLen (b : ByteBuf) : (s.setPack b).pkLen = s.pkLen := rfl
@[simp] theorem setPack_pkRowlen (b : ByteBuf) : (s.setPack b).pkRowlen = s.pkRowlen := rfl
@[simp] theorem setPack_pkW (b : ByteBuf) : (s.setPack b).pkW = s.pkW := rfl
@[simp] theorem setPack_pkH (b : ByteBuf) : (s.setPack b).pkH = s.pkH := rfl
@[simp] theorem setPack_outLen (b : ByteBuf) : (s.setPack b).outLen = s.outLen := rfl
@[simp] theorem setPack_crcAcc (b : ByteBuf) : (s.setPack b).crcAcc = s.crcAcc := rfl
@[simp] theorem setPack_capPix (b : ByteBuf) : (s.setPack b).capPix = s.capPix := rfl
@[simp] theorem setPack_capGrid (b : ByteBuf) : (s.setPack b).capGrid = s.capGrid := rfl
@[simp] theorem setPack_capPack (b : ByteBuf) : (s.setPack b).capPack = s.capPack := rfl
@[simp] theorem setPack_capOut (b : ByteBuf) : (s.setPack b).capOut = s.capOut := rfl
@[simp] theorem setPack_mem (b : ByteBuf) : (s.setPack b).mem = { s.mem with pack := b } := rfl
@[simp] theorem setPack_seq (b : ByteBuf) : (s.setPack b).seq = s.seq := rfl
@[simp] theorem setPack_inputs (b : ByteBuf) : (s.setPack b).inputs = s.inputs := rfl
@[simp] theorem setPack_rdata (b : ByteBuf) : (s.setPack b).rdata = s.rdata := rfl
@[simp] theorem setPack_stalls (b : ByteBuf) : (s.setPack b).stalls = s.stalls := rfl
@[simp] theorem setPack_started (b : ByteBuf) : (s.setPack b).started = s.started := rfl
@[simp] theorem setPack_draws (b : ByteBuf) : (s.setPack b).draws = s.draws := rfl

/-! ### State.setOut -/

@[simp] theorem setOut_done (b : ByteBuf) : (s.setOut b).done = s.done := rfl
@[simp] theorem setOut_empty (b : ByteBuf) : (s.setOut b).empty = s.empty := rfl
@[simp] theorem setOut_conflict (b : ByteBuf) : (s.setOut b).conflict = s.conflict := rfl
@[simp] theorem setOut_crcErr (b : ByteBuf) : (s.setOut b).crcErr = s.crcErr := rfl
@[simp] theorem setOut_gridValid (b : ByteBuf) : (s.setOut b).gridValid = s.gridValid := rfl
@[simp] theorem setOut_packValid (b : ByteBuf) : (s.setOut b).packValid = s.packValid := rfl
@[simp] theorem setOut_outValid (b : ByteBuf) : (s.setOut b).outValid = s.outValid := rfl
@[simp] theorem setOut_err (b : ByteBuf) : (s.setOut b).err = s.err := rfl
@[simp] theorem setOut_errInfo (b : ByteBuf) : (s.setOut b).errInfo = s.errInfo := rfl
@[simp] theorem setOut_doneIe (b : ByteBuf) : (s.setOut b).doneIe = s.doneIe := rfl
@[simp] theorem setOut_width (b : ByteBuf) : (s.setOut b).width = s.width := rfl
@[simp] theorem setOut_pixLen (b : ByteBuf) : (s.setOut b).pixLen = s.pixLen := rfl
@[simp] theorem setOut_black (b : ByteBuf) : (s.setOut b).black = s.black := rfl
@[simp] theorem setOut_notrim (b : ByteBuf) : (s.setOut b).notrim = s.notrim := rfl
@[simp] theorem setOut_gridW (b : ByteBuf) : (s.setOut b).gridW = s.gridW := rfl
@[simp] theorem setOut_gridH (b : ByteBuf) : (s.setOut b).gridH = s.gridH := rfl
@[simp] theorem setOut_pkLen (b : ByteBuf) : (s.setOut b).pkLen = s.pkLen := rfl
@[simp] theorem setOut_pkRowlen (b : ByteBuf) : (s.setOut b).pkRowlen = s.pkRowlen := rfl
@[simp] theorem setOut_pkW (b : ByteBuf) : (s.setOut b).pkW = s.pkW := rfl
@[simp] theorem setOut_pkH (b : ByteBuf) : (s.setOut b).pkH = s.pkH := rfl
@[simp] theorem setOut_outLen (b : ByteBuf) : (s.setOut b).outLen = s.outLen := rfl
@[simp] theorem setOut_crcAcc (b : ByteBuf) : (s.setOut b).crcAcc = s.crcAcc := rfl
@[simp] theorem setOut_capPix (b : ByteBuf) : (s.setOut b).capPix = s.capPix := rfl
@[simp] theorem setOut_capGrid (b : ByteBuf) : (s.setOut b).capGrid = s.capGrid := rfl
@[simp] theorem setOut_capPack (b : ByteBuf) : (s.setOut b).capPack = s.capPack := rfl
@[simp] theorem setOut_capOut (b : ByteBuf) : (s.setOut b).capOut = s.capOut := rfl
@[simp] theorem setOut_mem (b : ByteBuf) : (s.setOut b).mem = { s.mem with out := b } := rfl
@[simp] theorem setOut_seq (b : ByteBuf) : (s.setOut b).seq = s.seq := rfl
@[simp] theorem setOut_inputs (b : ByteBuf) : (s.setOut b).inputs = s.inputs := rfl
@[simp] theorem setOut_rdata (b : ByteBuf) : (s.setOut b).rdata = s.rdata := rfl
@[simp] theorem setOut_stalls (b : ByteBuf) : (s.setOut b).stalls = s.stalls := rfl
@[simp] theorem setOut_started (b : ByteBuf) : (s.setOut b).started = s.started := rfl
@[simp] theorem setOut_draws (b : ByteBuf) : (s.setOut b).draws = s.draws := rfl

/-! ### State.redrawPix -/

@[simp] theorem redrawPix_done : s.redrawPix.done = s.done := rfl
@[simp] theorem redrawPix_empty : s.redrawPix.empty = s.empty := rfl
@[simp] theorem redrawPix_conflict : s.redrawPix.conflict = s.conflict := rfl
@[simp] theorem redrawPix_crcErr : s.redrawPix.crcErr = s.crcErr := rfl
@[simp] theorem redrawPix_gridValid : s.redrawPix.gridValid = s.gridValid := rfl
@[simp] theorem redrawPix_packValid : s.redrawPix.packValid = s.packValid := rfl
@[simp] theorem redrawPix_outValid : s.redrawPix.outValid = s.outValid := rfl
@[simp] theorem redrawPix_err : s.redrawPix.err = s.err := rfl
@[simp] theorem redrawPix_errInfo : s.redrawPix.errInfo = s.errInfo := rfl
@[simp] theorem redrawPix_doneIe : s.redrawPix.doneIe = s.doneIe := rfl
@[simp] theorem redrawPix_width : s.redrawPix.width = s.width := rfl
@[simp] theorem redrawPix_pixLen : s.redrawPix.pixLen = s.pixLen := rfl
@[simp] theorem redrawPix_black : s.redrawPix.black = s.black := rfl
@[simp] theorem redrawPix_notrim : s.redrawPix.notrim = s.notrim := rfl
@[simp] theorem redrawPix_gridW : s.redrawPix.gridW = s.gridW := rfl
@[simp] theorem redrawPix_gridH : s.redrawPix.gridH = s.gridH := rfl
@[simp] theorem redrawPix_pkLen : s.redrawPix.pkLen = s.pkLen := rfl
@[simp] theorem redrawPix_pkRowlen : s.redrawPix.pkRowlen = s.pkRowlen := rfl
@[simp] theorem redrawPix_pkW : s.redrawPix.pkW = s.pkW := rfl
@[simp] theorem redrawPix_pkH : s.redrawPix.pkH = s.pkH := rfl
@[simp] theorem redrawPix_outLen : s.redrawPix.outLen = s.outLen := rfl
@[simp] theorem redrawPix_crcAcc : s.redrawPix.crcAcc = s.crcAcc := rfl
@[simp] theorem redrawPix_capPix : s.redrawPix.capPix = s.capPix := rfl
@[simp] theorem redrawPix_capGrid : s.redrawPix.capGrid = s.capGrid := rfl
@[simp] theorem redrawPix_capPack : s.redrawPix.capPack = s.capPack := rfl
@[simp] theorem redrawPix_capOut : s.redrawPix.capOut = s.capOut := rfl
@[simp] theorem redrawPix_mem : s.redrawPix.mem = { s.mem with pix := ⟨[], s.draws⟩ } := rfl
@[simp] theorem redrawPix_seq : s.redrawPix.seq = s.seq := rfl
@[simp] theorem redrawPix_inputs : s.redrawPix.inputs = s.inputs := rfl
@[simp] theorem redrawPix_rdata : s.redrawPix.rdata = s.rdata := rfl
@[simp] theorem redrawPix_stalls : s.redrawPix.stalls = s.stalls := rfl
@[simp] theorem redrawPix_started : s.redrawPix.started = s.started := rfl
@[simp] theorem redrawPix_draws : s.redrawPix.draws = s.draws + 1 := rfl

/-! ### State.fillGrid -/

@[simp] theorem fillGrid_done (l : List Bool) : (s.fillGrid l).done = s.done := rfl
@[simp] theorem fillGrid_empty (l : List Bool) : (s.fillGrid l).empty = s.empty := rfl
@[simp] theorem fillGrid_conflict (l : List Bool) : (s.fillGrid l).conflict = s.conflict := rfl
@[simp] theorem fillGrid_crcErr (l : List Bool) : (s.fillGrid l).crcErr = s.crcErr := rfl
@[simp] theorem fillGrid_gridValid (l : List Bool) : (s.fillGrid l).gridValid = s.gridValid := rfl
@[simp] theorem fillGrid_packValid (l : List Bool) : (s.fillGrid l).packValid = s.packValid := rfl
@[simp] theorem fillGrid_outValid (l : List Bool) : (s.fillGrid l).outValid = s.outValid := rfl
@[simp] theorem fillGrid_err (l : List Bool) : (s.fillGrid l).err = s.err := rfl
@[simp] theorem fillGrid_errInfo (l : List Bool) : (s.fillGrid l).errInfo = s.errInfo := rfl
@[simp] theorem fillGrid_doneIe (l : List Bool) : (s.fillGrid l).doneIe = s.doneIe := rfl
@[simp] theorem fillGrid_width (l : List Bool) : (s.fillGrid l).width = s.width := rfl
@[simp] theorem fillGrid_pixLen (l : List Bool) : (s.fillGrid l).pixLen = s.pixLen := rfl
@[simp] theorem fillGrid_black (l : List Bool) : (s.fillGrid l).black = s.black := rfl
@[simp] theorem fillGrid_notrim (l : List Bool) : (s.fillGrid l).notrim = s.notrim := rfl
@[simp] theorem fillGrid_gridW (l : List Bool) : (s.fillGrid l).gridW = s.gridW := rfl
@[simp] theorem fillGrid_gridH (l : List Bool) : (s.fillGrid l).gridH = s.gridH := rfl
@[simp] theorem fillGrid_pkLen (l : List Bool) : (s.fillGrid l).pkLen = s.pkLen := rfl
@[simp] theorem fillGrid_pkRowlen (l : List Bool) : (s.fillGrid l).pkRowlen = s.pkRowlen := rfl
@[simp] theorem fillGrid_pkW (l : List Bool) : (s.fillGrid l).pkW = s.pkW := rfl
@[simp] theorem fillGrid_pkH (l : List Bool) : (s.fillGrid l).pkH = s.pkH := rfl
@[simp] theorem fillGrid_outLen (l : List Bool) : (s.fillGrid l).outLen = s.outLen := rfl
@[simp] theorem fillGrid_crcAcc (l : List Bool) : (s.fillGrid l).crcAcc = s.crcAcc := rfl
@[simp] theorem fillGrid_capPix (l : List Bool) : (s.fillGrid l).capPix = s.capPix := rfl
@[simp] theorem fillGrid_capGrid (l : List Bool) : (s.fillGrid l).capGrid = s.capGrid := rfl
@[simp] theorem fillGrid_capPack (l : List Bool) : (s.fillGrid l).capPack = s.capPack := rfl
@[simp] theorem fillGrid_capOut (l : List Bool) : (s.fillGrid l).capOut = s.capOut := rfl
@[simp] theorem fillGrid_mem (l : List Bool) : (s.fillGrid l).mem = { s.mem with grid := ⟨numberFrom 0 l, s.draws⟩ } := rfl
@[simp] theorem fillGrid_seq (l : List Bool) : (s.fillGrid l).seq = s.seq := rfl
@[simp] theorem fillGrid_inputs (l : List Bool) : (s.fillGrid l).inputs = s.inputs := rfl
@[simp] theorem fillGrid_rdata (l : List Bool) : (s.fillGrid l).rdata = s.rdata := rfl
@[simp] theorem fillGrid_stalls (l : List Bool) : (s.fillGrid l).stalls = s.stalls := rfl
@[simp] theorem fillGrid_started (l : List Bool) : (s.fillGrid l).started = s.started := rfl
@[simp] theorem fillGrid_draws (l : List Bool) : (s.fillGrid l).draws = s.draws + 1 := rfl

/-! ### State.fillPack -/

@[simp] theorem fillPack_done (l : List Byte) : (s.fillPack l).done = s.done := rfl
@[simp] theorem fillPack_empty (l : List Byte) : (s.fillPack l).empty = s.empty := rfl
@[simp] theorem fillPack_conflict (l : List Byte) : (s.fillPack l).conflict = s.conflict := rfl
@[simp] theorem fillPack_crcErr (l : List Byte) : (s.fillPack l).crcErr = s.crcErr := rfl
@[simp] theorem fillPack_gridValid (l : List Byte) : (s.fillPack l).gridValid = s.gridValid := rfl
@[simp] theorem fillPack_packValid (l : List Byte) : (s.fillPack l).packValid = s.packValid := rfl
@[simp] theorem fillPack_outValid (l : List Byte) : (s.fillPack l).outValid = s.outValid := rfl
@[simp] theorem fillPack_err (l : List Byte) : (s.fillPack l).err = s.err := rfl
@[simp] theorem fillPack_errInfo (l : List Byte) : (s.fillPack l).errInfo = s.errInfo := rfl
@[simp] theorem fillPack_doneIe (l : List Byte) : (s.fillPack l).doneIe = s.doneIe := rfl
@[simp] theorem fillPack_width (l : List Byte) : (s.fillPack l).width = s.width := rfl
@[simp] theorem fillPack_pixLen (l : List Byte) : (s.fillPack l).pixLen = s.pixLen := rfl
@[simp] theorem fillPack_black (l : List Byte) : (s.fillPack l).black = s.black := rfl
@[simp] theorem fillPack_notrim (l : List Byte) : (s.fillPack l).notrim = s.notrim := rfl
@[simp] theorem fillPack_gridW (l : List Byte) : (s.fillPack l).gridW = s.gridW := rfl
@[simp] theorem fillPack_gridH (l : List Byte) : (s.fillPack l).gridH = s.gridH := rfl
@[simp] theorem fillPack_pkLen (l : List Byte) : (s.fillPack l).pkLen = s.pkLen := rfl
@[simp] theorem fillPack_pkRowlen (l : List Byte) : (s.fillPack l).pkRowlen = s.pkRowlen := rfl
@[simp] theorem fillPack_pkW (l : List Byte) : (s.fillPack l).pkW = s.pkW := rfl
@[simp] theorem fillPack_pkH (l : List Byte) : (s.fillPack l).pkH = s.pkH := rfl
@[simp] theorem fillPack_outLen (l : List Byte) : (s.fillPack l).outLen = s.outLen := rfl
@[simp] theorem fillPack_crcAcc (l : List Byte) : (s.fillPack l).crcAcc = s.crcAcc := rfl
@[simp] theorem fillPack_capPix (l : List Byte) : (s.fillPack l).capPix = s.capPix := rfl
@[simp] theorem fillPack_capGrid (l : List Byte) : (s.fillPack l).capGrid = s.capGrid := rfl
@[simp] theorem fillPack_capPack (l : List Byte) : (s.fillPack l).capPack = s.capPack := rfl
@[simp] theorem fillPack_capOut (l : List Byte) : (s.fillPack l).capOut = s.capOut := rfl
@[simp] theorem fillPack_mem (l : List Byte) : (s.fillPack l).mem = { s.mem with pack := ⟨numberFrom 0 l, s.draws⟩ } := rfl
@[simp] theorem fillPack_seq (l : List Byte) : (s.fillPack l).seq = s.seq := rfl
@[simp] theorem fillPack_inputs (l : List Byte) : (s.fillPack l).inputs = s.inputs := rfl
@[simp] theorem fillPack_rdata (l : List Byte) : (s.fillPack l).rdata = s.rdata := rfl
@[simp] theorem fillPack_stalls (l : List Byte) : (s.fillPack l).stalls = s.stalls := rfl
@[simp] theorem fillPack_started (l : List Byte) : (s.fillPack l).started = s.started := rfl
@[simp] theorem fillPack_draws (l : List Byte) : (s.fillPack l).draws = s.draws + 1 := rfl

/-! ### State.fillOut -/

@[simp] theorem fillOut_done (l : List Byte) : (s.fillOut l).done = s.done := rfl
@[simp] theorem fillOut_empty (l : List Byte) : (s.fillOut l).empty = s.empty := rfl
@[simp] theorem fillOut_conflict (l : List Byte) : (s.fillOut l).conflict = s.conflict := rfl
@[simp] theorem fillOut_crcErr (l : List Byte) : (s.fillOut l).crcErr = s.crcErr := rfl
@[simp] theorem fillOut_gridValid (l : List Byte) : (s.fillOut l).gridValid = s.gridValid := rfl
@[simp] theorem fillOut_packValid (l : List Byte) : (s.fillOut l).packValid = s.packValid := rfl
@[simp] theorem fillOut_outValid (l : List Byte) : (s.fillOut l).outValid = s.outValid := rfl
@[simp] theorem fillOut_err (l : List Byte) : (s.fillOut l).err = s.err := rfl
@[simp] theorem fillOut_errInfo (l : List Byte) : (s.fillOut l).errInfo = s.errInfo := rfl
@[simp] theorem fillOut_doneIe (l : List Byte) : (s.fillOut l).doneIe = s.doneIe := rfl
@[simp] theorem fillOut_width (l : List Byte) : (s.fillOut l).width = s.width := rfl
@[simp] theorem fillOut_pixLen (l : List Byte) : (s.fillOut l).pixLen = s.pixLen := rfl
@[simp] theorem fillOut_black (l : List Byte) : (s.fillOut l).black = s.black := rfl
@[simp] theorem fillOut_notrim (l : List Byte) : (s.fillOut l).notrim = s.notrim := rfl
@[simp] theorem fillOut_gridW (l : List Byte) : (s.fillOut l).gridW = s.gridW := rfl
@[simp] theorem fillOut_gridH (l : List Byte) : (s.fillOut l).gridH = s.gridH := rfl
@[simp] theorem fillOut_pkLen (l : List Byte) : (s.fillOut l).pkLen = s.pkLen := rfl
@[simp] theorem fillOut_pkRowlen (l : List Byte) : (s.fillOut l).pkRowlen = s.pkRowlen := rfl
@[simp] theorem fillOut_pkW (l : List Byte) : (s.fillOut l).pkW = s.pkW := rfl
@[simp] theorem fillOut_pkH (l : List Byte) : (s.fillOut l).pkH = s.pkH := rfl
@[simp] theorem fillOut_outLen (l : List Byte) : (s.fillOut l).outLen = s.outLen := rfl
@[simp] theorem fillOut_crcAcc (l : List Byte) : (s.fillOut l).crcAcc = s.crcAcc := rfl
@[simp] theorem fillOut_capPix (l : List Byte) : (s.fillOut l).capPix = s.capPix := rfl
@[simp] theorem fillOut_capGrid (l : List Byte) : (s.fillOut l).capGrid = s.capGrid := rfl
@[simp] theorem fillOut_capPack (l : List Byte) : (s.fillOut l).capPack = s.capPack := rfl
@[simp] theorem fillOut_capOut (l : List Byte) : (s.fillOut l).capOut = s.capOut := rfl
@[simp] theorem fillOut_mem (l : List Byte) : (s.fillOut l).mem = { s.mem with out := ⟨numberFrom 0 l, s.draws⟩ } := rfl
@[simp] theorem fillOut_seq (l : List Byte) : (s.fillOut l).seq = s.seq := rfl
@[simp] theorem fillOut_inputs (l : List Byte) : (s.fillOut l).inputs = s.inputs := rfl
@[simp] theorem fillOut_rdata (l : List Byte) : (s.fillOut l).rdata = s.rdata := rfl
@[simp] theorem fillOut_stalls (l : List Byte) : (s.fillOut l).stalls = s.stalls := rfl
@[simp] theorem fillOut_started (l : List Byte) : (s.fillOut l).started = s.started := rfl
@[simp] theorem fillOut_draws (l : List Byte) : (s.fillOut l).draws = s.draws + 1 := rfl

/-! ### State.clearReport -/

@[simp] theorem clearReport_done : s.clearReport.done = false := rfl
@[simp] theorem clearReport_empty : s.clearReport.empty = s.empty := rfl
@[simp] theorem clearReport_conflict : s.clearReport.conflict = s.conflict := rfl
@[simp] theorem clearReport_crcErr : s.clearReport.crcErr = s.crcErr := rfl
@[simp] theorem clearReport_gridValid : s.clearReport.gridValid = s.gridValid := rfl
@[simp] theorem clearReport_packValid : s.clearReport.packValid = s.packValid := rfl
@[simp] theorem clearReport_outValid : s.clearReport.outValid = s.outValid := rfl
@[simp] theorem clearReport_err : s.clearReport.err = .none := rfl
@[simp] theorem clearReport_errInfo : s.clearReport.errInfo = 0 := rfl
@[simp] theorem clearReport_doneIe : s.clearReport.doneIe = s.doneIe := rfl
@[simp] theorem clearReport_width : s.clearReport.width = s.width := rfl
@[simp] theorem clearReport_pixLen : s.clearReport.pixLen = s.pixLen := rfl
@[simp] theorem clearReport_black : s.clearReport.black = s.black := rfl
@[simp] theorem clearReport_notrim : s.clearReport.notrim = s.notrim := rfl
@[simp] theorem clearReport_gridW : s.clearReport.gridW = s.gridW := rfl
@[simp] theorem clearReport_gridH : s.clearReport.gridH = s.gridH := rfl
@[simp] theorem clearReport_pkLen : s.clearReport.pkLen = s.pkLen := rfl
@[simp] theorem clearReport_pkRowlen : s.clearReport.pkRowlen = s.pkRowlen := rfl
@[simp] theorem clearReport_pkW : s.clearReport.pkW = s.pkW := rfl
@[simp] theorem clearReport_pkH : s.clearReport.pkH = s.pkH := rfl
@[simp] theorem clearReport_outLen : s.clearReport.outLen = s.outLen := rfl
@[simp] theorem clearReport_crcAcc : s.clearReport.crcAcc = s.crcAcc := rfl
@[simp] theorem clearReport_capPix : s.clearReport.capPix = s.capPix := rfl
@[simp] theorem clearReport_capGrid : s.clearReport.capGrid = s.capGrid := rfl
@[simp] theorem clearReport_capPack : s.clearReport.capPack = s.capPack := rfl
@[simp] theorem clearReport_capOut : s.clearReport.capOut = s.capOut := rfl
@[simp] theorem clearReport_mem : s.clearReport.mem = s.mem := rfl
@[simp] theorem clearReport_seq : s.clearReport.seq = s.seq := rfl
@[simp] theorem clearReport_inputs : s.clearReport.inputs = s.inputs := rfl
@[simp] theorem clearReport_rdata : s.clearReport.rdata = s.rdata := rfl
@[simp] theorem clearReport_stalls : s.clearReport.stalls = s.stalls := rfl
@[simp] theorem clearReport_started : s.clearReport.started = s.started := rfl
@[simp] theorem clearReport_draws : s.clearReport.draws = s.draws := rfl

/-! ### State.report -/

@[simp] theorem report_done (c : ErrCode) (w : Word) : (s.report c w).done = s.done := rfl
@[simp] theorem report_empty (c : ErrCode) (w : Word) : (s.report c w).empty = s.empty := rfl
@[simp] theorem report_conflict (c : ErrCode) (w : Word) : (s.report c w).conflict = s.conflict := rfl
@[simp] theorem report_crcErr (c : ErrCode) (w : Word) : (s.report c w).crcErr = s.crcErr := rfl
@[simp] theorem report_gridValid (c : ErrCode) (w : Word) : (s.report c w).gridValid = s.gridValid := rfl
@[simp] theorem report_packValid (c : ErrCode) (w : Word) : (s.report c w).packValid = s.packValid := rfl
@[simp] theorem report_outValid (c : ErrCode) (w : Word) : (s.report c w).outValid = s.outValid := rfl
@[simp] theorem report_err (c : ErrCode) (w : Word) : (s.report c w).err = c := rfl
@[simp] theorem report_errInfo (c : ErrCode) (w : Word) : (s.report c w).errInfo = w := rfl
@[simp] theorem report_doneIe (c : ErrCode) (w : Word) : (s.report c w).doneIe = s.doneIe := rfl
@[simp] theorem report_width (c : ErrCode) (w : Word) : (s.report c w).width = s.width := rfl
@[simp] theorem report_pixLen (c : ErrCode) (w : Word) : (s.report c w).pixLen = s.pixLen := rfl
@[simp] theorem report_black (c : ErrCode) (w : Word) : (s.report c w).black = s.black := rfl
@[simp] theorem report_notrim (c : ErrCode) (w : Word) : (s.report c w).notrim = s.notrim := rfl
@[simp] theorem report_gridW (c : ErrCode) (w : Word) : (s.report c w).gridW = s.gridW := rfl
@[simp] theorem report_gridH (c : ErrCode) (w : Word) : (s.report c w).gridH = s.gridH := rfl
@[simp] theorem report_pkLen (c : ErrCode) (w : Word) : (s.report c w).pkLen = s.pkLen := rfl
@[simp] theorem report_pkRowlen (c : ErrCode) (w : Word) : (s.report c w).pkRowlen = s.pkRowlen := rfl
@[simp] theorem report_pkW (c : ErrCode) (w : Word) : (s.report c w).pkW = s.pkW := rfl
@[simp] theorem report_pkH (c : ErrCode) (w : Word) : (s.report c w).pkH = s.pkH := rfl
@[simp] theorem report_outLen (c : ErrCode) (w : Word) : (s.report c w).outLen = s.outLen := rfl
@[simp] theorem report_crcAcc (c : ErrCode) (w : Word) : (s.report c w).crcAcc = s.crcAcc := rfl
@[simp] theorem report_capPix (c : ErrCode) (w : Word) : (s.report c w).capPix = s.capPix := rfl
@[simp] theorem report_capGrid (c : ErrCode) (w : Word) : (s.report c w).capGrid = s.capGrid := rfl
@[simp] theorem report_capPack (c : ErrCode) (w : Word) : (s.report c w).capPack = s.capPack := rfl
@[simp] theorem report_capOut (c : ErrCode) (w : Word) : (s.report c w).capOut = s.capOut := rfl
@[simp] theorem report_mem (c : ErrCode) (w : Word) : (s.report c w).mem = s.mem := rfl
@[simp] theorem report_seq (c : ErrCode) (w : Word) : (s.report c w).seq = s.seq := rfl
@[simp] theorem report_inputs (c : ErrCode) (w : Word) : (s.report c w).inputs = s.inputs := rfl
@[simp] theorem report_rdata (c : ErrCode) (w : Word) : (s.report c w).rdata = s.rdata := rfl
@[simp] theorem report_stalls (c : ErrCode) (w : Word) : (s.report c w).stalls = s.stalls := rfl
@[simp] theorem report_started (c : ErrCode) (w : Word) : (s.report c w).started = s.started := rfl
@[simp] theorem report_draws (c : ErrCode) (w : Word) : (s.report c w).draws = s.draws := rfl

/-! ### State.reject -/

@[simp] theorem reject_done (c : ErrCode) (w : Word) : (s.reject c w).done = true := rfl
@[simp] theorem reject_empty (c : ErrCode) (w : Word) : (s.reject c w).empty = s.empty := rfl
@[simp] theorem reject_conflict (c : ErrCode) (w : Word) : (s.reject c w).conflict = s.conflict := rfl
@[simp] theorem reject_crcErr (c : ErrCode) (w : Word) : (s.reject c w).crcErr = s.crcErr := rfl
@[simp] theorem reject_gridValid (c : ErrCode) (w : Word) : (s.reject c w).gridValid = s.gridValid := rfl
@[simp] theorem reject_packValid (c : ErrCode) (w : Word) : (s.reject c w).packValid = s.packValid := rfl
@[simp] theorem reject_outValid (c : ErrCode) (w : Word) : (s.reject c w).outValid = s.outValid := rfl
@[simp] theorem reject_err (c : ErrCode) (w : Word) : (s.reject c w).err = c := rfl
@[simp] theorem reject_errInfo (c : ErrCode) (w : Word) : (s.reject c w).errInfo = w := rfl
@[simp] theorem reject_doneIe (c : ErrCode) (w : Word) : (s.reject c w).doneIe = s.doneIe := rfl
@[simp] theorem reject_width (c : ErrCode) (w : Word) : (s.reject c w).width = s.width := rfl
@[simp] theorem reject_pixLen (c : ErrCode) (w : Word) : (s.reject c w).pixLen = s.pixLen := rfl
@[simp] theorem reject_black (c : ErrCode) (w : Word) : (s.reject c w).black = s.black := rfl
@[simp] theorem reject_notrim (c : ErrCode) (w : Word) : (s.reject c w).notrim = s.notrim := rfl
@[simp] theorem reject_gridW (c : ErrCode) (w : Word) : (s.reject c w).gridW = s.gridW := rfl
@[simp] theorem reject_gridH (c : ErrCode) (w : Word) : (s.reject c w).gridH = s.gridH := rfl
@[simp] theorem reject_pkLen (c : ErrCode) (w : Word) : (s.reject c w).pkLen = s.pkLen := rfl
@[simp] theorem reject_pkRowlen (c : ErrCode) (w : Word) : (s.reject c w).pkRowlen = s.pkRowlen := rfl
@[simp] theorem reject_pkW (c : ErrCode) (w : Word) : (s.reject c w).pkW = s.pkW := rfl
@[simp] theorem reject_pkH (c : ErrCode) (w : Word) : (s.reject c w).pkH = s.pkH := rfl
@[simp] theorem reject_outLen (c : ErrCode) (w : Word) : (s.reject c w).outLen = s.outLen := rfl
@[simp] theorem reject_crcAcc (c : ErrCode) (w : Word) : (s.reject c w).crcAcc = s.crcAcc := rfl
@[simp] theorem reject_capPix (c : ErrCode) (w : Word) : (s.reject c w).capPix = s.capPix := rfl
@[simp] theorem reject_capGrid (c : ErrCode) (w : Word) : (s.reject c w).capGrid = s.capGrid := rfl
@[simp] theorem reject_capPack (c : ErrCode) (w : Word) : (s.reject c w).capPack = s.capPack := rfl
@[simp] theorem reject_capOut (c : ErrCode) (w : Word) : (s.reject c w).capOut = s.capOut := rfl
@[simp] theorem reject_mem (c : ErrCode) (w : Word) : (s.reject c w).mem = s.mem := rfl
@[simp] theorem reject_seq (c : ErrCode) (w : Word) : (s.reject c w).seq = s.seq := rfl
@[simp] theorem reject_inputs (c : ErrCode) (w : Word) : (s.reject c w).inputs = s.inputs := rfl
@[simp] theorem reject_rdata (c : ErrCode) (w : Word) : (s.reject c w).rdata = s.rdata := rfl
@[simp] theorem reject_stalls (c : ErrCode) (w : Word) : (s.reject c w).stalls = s.stalls := rfl
@[simp] theorem reject_started (c : ErrCode) (w : Word) : (s.reject c w).started = s.started := rfl
@[simp] theorem reject_draws (c : ErrCode) (w : Word) : (s.reject c w).draws = s.draws := rfl

/-! ### State.complete -/

@[simp] theorem complete_done : s.complete.done = true := rfl
@[simp] theorem complete_empty : s.complete.empty = s.empty := rfl
@[simp] theorem complete_conflict : s.complete.conflict = s.conflict := rfl
@[simp] theorem complete_crcErr : s.complete.crcErr = s.crcErr := rfl
@[simp] theorem complete_gridValid : s.complete.gridValid = s.gridValid := rfl
@[simp] theorem complete_packValid : s.complete.packValid = s.packValid := rfl
@[simp] theorem complete_outValid : s.complete.outValid = s.outValid := rfl
@[simp] theorem complete_err : s.complete.err = s.err := rfl
@[simp] theorem complete_errInfo : s.complete.errInfo = s.errInfo := rfl
@[simp] theorem complete_doneIe : s.complete.doneIe = s.doneIe := rfl
@[simp] theorem complete_width : s.complete.width = s.width := rfl
@[simp] theorem complete_pixLen : s.complete.pixLen = s.pixLen := rfl
@[simp] theorem complete_black : s.complete.black = s.black := rfl
@[simp] theorem complete_notrim : s.complete.notrim = s.notrim := rfl
@[simp] theorem complete_gridW : s.complete.gridW = s.gridW := rfl
@[simp] theorem complete_gridH : s.complete.gridH = s.gridH := rfl
@[simp] theorem complete_pkLen : s.complete.pkLen = s.pkLen := rfl
@[simp] theorem complete_pkRowlen : s.complete.pkRowlen = s.pkRowlen := rfl
@[simp] theorem complete_pkW : s.complete.pkW = s.pkW := rfl
@[simp] theorem complete_pkH : s.complete.pkH = s.pkH := rfl
@[simp] theorem complete_outLen : s.complete.outLen = s.outLen := rfl
@[simp] theorem complete_crcAcc : s.complete.crcAcc = s.crcAcc := rfl
@[simp] theorem complete_capPix : s.complete.capPix = s.capPix := rfl
@[simp] theorem complete_capGrid : s.complete.capGrid = s.capGrid := rfl
@[simp] theorem complete_capPack : s.complete.capPack = s.capPack := rfl
@[simp] theorem complete_capOut : s.complete.capOut = s.capOut := rfl
@[simp] theorem complete_mem : s.complete.mem = s.mem := rfl
@[simp] theorem complete_seq : s.complete.seq = .idle := rfl
@[simp] theorem complete_inputs : s.complete.inputs = s.inputs := rfl
@[simp] theorem complete_rdata : s.complete.rdata = s.rdata := rfl
@[simp] theorem complete_stalls : s.complete.stalls = s.stalls := rfl
@[simp] theorem complete_started : s.complete.started = s.started := rfl
@[simp] theorem complete_draws : s.complete.draws = s.draws := rfl

/-! ### State.dropWrite -/

@[simp] theorem dropWrite_done : s.dropWrite.done = s.done := rfl
@[simp] theorem dropWrite_empty : s.dropWrite.empty = s.empty := rfl
@[simp] theorem dropWrite_conflict : s.dropWrite.conflict = true := rfl
@[simp] theorem dropWrite_crcErr : s.dropWrite.crcErr = s.crcErr := rfl
@[simp] theorem dropWrite_gridValid : s.dropWrite.gridValid = s.gridValid := rfl
@[simp] theorem dropWrite_packValid : s.dropWrite.packValid = s.packValid := rfl
@[simp] theorem dropWrite_outValid : s.dropWrite.outValid = s.outValid := rfl
@[simp] theorem dropWrite_err : s.dropWrite.err = s.err := rfl
@[simp] theorem dropWrite_errInfo : s.dropWrite.errInfo = s.errInfo := rfl
@[simp] theorem dropWrite_doneIe : s.dropWrite.doneIe = s.doneIe := rfl
@[simp] theorem dropWrite_width : s.dropWrite.width = s.width := rfl
@[simp] theorem dropWrite_pixLen : s.dropWrite.pixLen = s.pixLen := rfl
@[simp] theorem dropWrite_black : s.dropWrite.black = s.black := rfl
@[simp] theorem dropWrite_notrim : s.dropWrite.notrim = s.notrim := rfl
@[simp] theorem dropWrite_gridW : s.dropWrite.gridW = s.gridW := rfl
@[simp] theorem dropWrite_gridH : s.dropWrite.gridH = s.gridH := rfl
@[simp] theorem dropWrite_pkLen : s.dropWrite.pkLen = s.pkLen := rfl
@[simp] theorem dropWrite_pkRowlen : s.dropWrite.pkRowlen = s.pkRowlen := rfl
@[simp] theorem dropWrite_pkW : s.dropWrite.pkW = s.pkW := rfl
@[simp] theorem dropWrite_pkH : s.dropWrite.pkH = s.pkH := rfl
@[simp] theorem dropWrite_outLen : s.dropWrite.outLen = s.outLen := rfl
@[simp] theorem dropWrite_crcAcc : s.dropWrite.crcAcc = s.crcAcc := rfl
@[simp] theorem dropWrite_capPix : s.dropWrite.capPix = s.capPix := rfl
@[simp] theorem dropWrite_capGrid : s.dropWrite.capGrid = s.capGrid := rfl
@[simp] theorem dropWrite_capPack : s.dropWrite.capPack = s.capPack := rfl
@[simp] theorem dropWrite_capOut : s.dropWrite.capOut = s.capOut := rfl
@[simp] theorem dropWrite_mem : s.dropWrite.mem = s.mem := rfl
@[simp] theorem dropWrite_seq : s.dropWrite.seq = s.seq := rfl
@[simp] theorem dropWrite_inputs : s.dropWrite.inputs = s.inputs := rfl
@[simp] theorem dropWrite_rdata : s.dropWrite.rdata = s.rdata := rfl
@[simp] theorem dropWrite_stalls : s.dropWrite.stalls = s.stalls := rfl
@[simp] theorem dropWrite_started : s.dropWrite.started = s.started := rfl
@[simp] theorem dropWrite_draws : s.dropWrite.draws = s.draws := rfl

/-! ### State.writeStatus -/

@[simp] theorem writeStatus_done (v : Word) : (s.writeStatus v).done = (s.done && !v.getLsbD 1) := rfl
@[simp] theorem writeStatus_empty (v : Word) : (s.writeStatus v).empty = s.empty := rfl
@[simp] theorem writeStatus_conflict (v : Word) : (s.writeStatus v).conflict = (s.conflict && !v.getLsbD 4) := rfl
@[simp] theorem writeStatus_crcErr (v : Word) : (s.writeStatus v).crcErr = s.crcErr := rfl
@[simp] theorem writeStatus_gridValid (v : Word) : (s.writeStatus v).gridValid = s.gridValid := rfl
@[simp] theorem writeStatus_packValid (v : Word) : (s.writeStatus v).packValid = s.packValid := rfl
@[simp] theorem writeStatus_outValid (v : Word) : (s.writeStatus v).outValid = s.outValid := rfl
@[simp] theorem writeStatus_err (v : Word) : (s.writeStatus v).err = s.err := rfl
@[simp] theorem writeStatus_errInfo (v : Word) : (s.writeStatus v).errInfo = s.errInfo := rfl
@[simp] theorem writeStatus_doneIe (v : Word) : (s.writeStatus v).doneIe = s.doneIe := rfl
@[simp] theorem writeStatus_width (v : Word) : (s.writeStatus v).width = s.width := rfl
@[simp] theorem writeStatus_pixLen (v : Word) : (s.writeStatus v).pixLen = s.pixLen := rfl
@[simp] theorem writeStatus_black (v : Word) : (s.writeStatus v).black = s.black := rfl
@[simp] theorem writeStatus_notrim (v : Word) : (s.writeStatus v).notrim = s.notrim := rfl
@[simp] theorem writeStatus_gridW (v : Word) : (s.writeStatus v).gridW = s.gridW := rfl
@[simp] theorem writeStatus_gridH (v : Word) : (s.writeStatus v).gridH = s.gridH := rfl
@[simp] theorem writeStatus_pkLen (v : Word) : (s.writeStatus v).pkLen = s.pkLen := rfl
@[simp] theorem writeStatus_pkRowlen (v : Word) : (s.writeStatus v).pkRowlen = s.pkRowlen := rfl
@[simp] theorem writeStatus_pkW (v : Word) : (s.writeStatus v).pkW = s.pkW := rfl
@[simp] theorem writeStatus_pkH (v : Word) : (s.writeStatus v).pkH = s.pkH := rfl
@[simp] theorem writeStatus_outLen (v : Word) : (s.writeStatus v).outLen = s.outLen := rfl
@[simp] theorem writeStatus_crcAcc (v : Word) : (s.writeStatus v).crcAcc = s.crcAcc := rfl
@[simp] theorem writeStatus_capPix (v : Word) : (s.writeStatus v).capPix = s.capPix := rfl
@[simp] theorem writeStatus_capGrid (v : Word) : (s.writeStatus v).capGrid = s.capGrid := rfl
@[simp] theorem writeStatus_capPack (v : Word) : (s.writeStatus v).capPack = s.capPack := rfl
@[simp] theorem writeStatus_capOut (v : Word) : (s.writeStatus v).capOut = s.capOut := rfl
@[simp] theorem writeStatus_mem (v : Word) : (s.writeStatus v).mem = s.mem := rfl
@[simp] theorem writeStatus_seq (v : Word) : (s.writeStatus v).seq = s.seq := rfl
@[simp] theorem writeStatus_inputs (v : Word) : (s.writeStatus v).inputs = s.inputs := rfl
@[simp] theorem writeStatus_rdata (v : Word) : (s.writeStatus v).rdata = s.rdata := rfl
@[simp] theorem writeStatus_stalls (v : Word) : (s.writeStatus v).stalls = s.stalls := rfl
@[simp] theorem writeStatus_started (v : Word) : (s.writeStatus v).started = s.started := rfl
@[simp] theorem writeStatus_draws (v : Word) : (s.writeStatus v).draws = s.draws := rfl

/-! ### State.writeIrqEn -/

@[simp] theorem writeIrqEn_done (v : Word) : (s.writeIrqEn v).done = s.done := rfl
@[simp] theorem writeIrqEn_empty (v : Word) : (s.writeIrqEn v).empty = s.empty := rfl
@[simp] theorem writeIrqEn_conflict (v : Word) : (s.writeIrqEn v).conflict = s.conflict := rfl
@[simp] theorem writeIrqEn_crcErr (v : Word) : (s.writeIrqEn v).crcErr = s.crcErr := rfl
@[simp] theorem writeIrqEn_gridValid (v : Word) : (s.writeIrqEn v).gridValid = s.gridValid := rfl
@[simp] theorem writeIrqEn_packValid (v : Word) : (s.writeIrqEn v).packValid = s.packValid := rfl
@[simp] theorem writeIrqEn_outValid (v : Word) : (s.writeIrqEn v).outValid = s.outValid := rfl
@[simp] theorem writeIrqEn_err (v : Word) : (s.writeIrqEn v).err = s.err := rfl
@[simp] theorem writeIrqEn_errInfo (v : Word) : (s.writeIrqEn v).errInfo = s.errInfo := rfl
@[simp] theorem writeIrqEn_doneIe (v : Word) : (s.writeIrqEn v).doneIe = v.getLsbD 0 := rfl
@[simp] theorem writeIrqEn_width (v : Word) : (s.writeIrqEn v).width = s.width := rfl
@[simp] theorem writeIrqEn_pixLen (v : Word) : (s.writeIrqEn v).pixLen = s.pixLen := rfl
@[simp] theorem writeIrqEn_black (v : Word) : (s.writeIrqEn v).black = s.black := rfl
@[simp] theorem writeIrqEn_notrim (v : Word) : (s.writeIrqEn v).notrim = s.notrim := rfl
@[simp] theorem writeIrqEn_gridW (v : Word) : (s.writeIrqEn v).gridW = s.gridW := rfl
@[simp] theorem writeIrqEn_gridH (v : Word) : (s.writeIrqEn v).gridH = s.gridH := rfl
@[simp] theorem writeIrqEn_pkLen (v : Word) : (s.writeIrqEn v).pkLen = s.pkLen := rfl
@[simp] theorem writeIrqEn_pkRowlen (v : Word) : (s.writeIrqEn v).pkRowlen = s.pkRowlen := rfl
@[simp] theorem writeIrqEn_pkW (v : Word) : (s.writeIrqEn v).pkW = s.pkW := rfl
@[simp] theorem writeIrqEn_pkH (v : Word) : (s.writeIrqEn v).pkH = s.pkH := rfl
@[simp] theorem writeIrqEn_outLen (v : Word) : (s.writeIrqEn v).outLen = s.outLen := rfl
@[simp] theorem writeIrqEn_crcAcc (v : Word) : (s.writeIrqEn v).crcAcc = s.crcAcc := rfl
@[simp] theorem writeIrqEn_capPix (v : Word) : (s.writeIrqEn v).capPix = s.capPix := rfl
@[simp] theorem writeIrqEn_capGrid (v : Word) : (s.writeIrqEn v).capGrid = s.capGrid := rfl
@[simp] theorem writeIrqEn_capPack (v : Word) : (s.writeIrqEn v).capPack = s.capPack := rfl
@[simp] theorem writeIrqEn_capOut (v : Word) : (s.writeIrqEn v).capOut = s.capOut := rfl
@[simp] theorem writeIrqEn_mem (v : Word) : (s.writeIrqEn v).mem = s.mem := rfl
@[simp] theorem writeIrqEn_seq (v : Word) : (s.writeIrqEn v).seq = s.seq := rfl
@[simp] theorem writeIrqEn_inputs (v : Word) : (s.writeIrqEn v).inputs = s.inputs := rfl
@[simp] theorem writeIrqEn_rdata (v : Word) : (s.writeIrqEn v).rdata = s.rdata := rfl
@[simp] theorem writeIrqEn_stalls (v : Word) : (s.writeIrqEn v).stalls = s.stalls := rfl
@[simp] theorem writeIrqEn_started (v : Word) : (s.writeIrqEn v).started = s.started := rfl
@[simp] theorem writeIrqEn_draws (v : Word) : (s.writeIrqEn v).draws = s.draws := rfl

/-! ### State.writeCfg -/

@[simp] theorem writeCfg_done (v : Word) : (s.writeCfg v).done = s.done := rfl
@[simp] theorem writeCfg_empty (v : Word) : (s.writeCfg v).empty = s.empty := rfl
@[simp] theorem writeCfg_conflict (v : Word) : (s.writeCfg v).conflict = s.conflict := rfl
@[simp] theorem writeCfg_crcErr (v : Word) : (s.writeCfg v).crcErr = s.crcErr := rfl
@[simp] theorem writeCfg_gridValid (v : Word) : (s.writeCfg v).gridValid = s.gridValid := rfl
@[simp] theorem writeCfg_packValid (v : Word) : (s.writeCfg v).packValid = s.packValid := rfl
@[simp] theorem writeCfg_outValid (v : Word) : (s.writeCfg v).outValid = s.outValid := rfl
@[simp] theorem writeCfg_err (v : Word) : (s.writeCfg v).err = s.err := rfl
@[simp] theorem writeCfg_errInfo (v : Word) : (s.writeCfg v).errInfo = s.errInfo := rfl
@[simp] theorem writeCfg_doneIe (v : Word) : (s.writeCfg v).doneIe = s.doneIe := rfl
@[simp] theorem writeCfg_width (v : Word) : (s.writeCfg v).width = s.width := rfl
@[simp] theorem writeCfg_pixLen (v : Word) : (s.writeCfg v).pixLen = s.pixLen := rfl
@[simp] theorem writeCfg_black (v : Word) : (s.writeCfg v).black = v.extractLsb' 0 7 := rfl
@[simp] theorem writeCfg_notrim (v : Word) : (s.writeCfg v).notrim = v.getLsbD 8 := rfl
@[simp] theorem writeCfg_gridW (v : Word) : (s.writeCfg v).gridW = s.gridW := rfl
@[simp] theorem writeCfg_gridH (v : Word) : (s.writeCfg v).gridH = s.gridH := rfl
@[simp] theorem writeCfg_pkLen (v : Word) : (s.writeCfg v).pkLen = s.pkLen := rfl
@[simp] theorem writeCfg_pkRowlen (v : Word) : (s.writeCfg v).pkRowlen = s.pkRowlen := rfl
@[simp] theorem writeCfg_pkW (v : Word) : (s.writeCfg v).pkW = s.pkW := rfl
@[simp] theorem writeCfg_pkH (v : Word) : (s.writeCfg v).pkH = s.pkH := rfl
@[simp] theorem writeCfg_outLen (v : Word) : (s.writeCfg v).outLen = s.outLen := rfl
@[simp] theorem writeCfg_crcAcc (v : Word) : (s.writeCfg v).crcAcc = s.crcAcc := rfl
@[simp] theorem writeCfg_capPix (v : Word) : (s.writeCfg v).capPix = s.capPix := rfl
@[simp] theorem writeCfg_capGrid (v : Word) : (s.writeCfg v).capGrid = s.capGrid := rfl
@[simp] theorem writeCfg_capPack (v : Word) : (s.writeCfg v).capPack = s.capPack := rfl
@[simp] theorem writeCfg_capOut (v : Word) : (s.writeCfg v).capOut = s.capOut := rfl
@[simp] theorem writeCfg_mem (v : Word) : (s.writeCfg v).mem = s.mem := rfl
@[simp] theorem writeCfg_seq (v : Word) : (s.writeCfg v).seq = s.seq := rfl
@[simp] theorem writeCfg_inputs (v : Word) : (s.writeCfg v).inputs = s.inputs := rfl
@[simp] theorem writeCfg_rdata (v : Word) : (s.writeCfg v).rdata = s.rdata := rfl
@[simp] theorem writeCfg_stalls (v : Word) : (s.writeCfg v).stalls = s.stalls := rfl
@[simp] theorem writeCfg_started (v : Word) : (s.writeCfg v).started = s.started := rfl
@[simp] theorem writeCfg_draws (v : Word) : (s.writeCfg v).draws = s.draws := rfl

/-! ### State.resetRegs -/

@[simp] theorem resetRegs_done : s.resetRegs.done = false := rfl
@[simp] theorem resetRegs_empty : s.resetRegs.empty = false := rfl
@[simp] theorem resetRegs_conflict : s.resetRegs.conflict = false := rfl
@[simp] theorem resetRegs_crcErr : s.resetRegs.crcErr = false := rfl
@[simp] theorem resetRegs_gridValid : s.resetRegs.gridValid = false := rfl
@[simp] theorem resetRegs_packValid : s.resetRegs.packValid = false := rfl
@[simp] theorem resetRegs_outValid : s.resetRegs.outValid = false := rfl
@[simp] theorem resetRegs_err : s.resetRegs.err = .none := rfl
@[simp] theorem resetRegs_errInfo : s.resetRegs.errInfo = 0 := rfl
@[simp] theorem resetRegs_doneIe : s.resetRegs.doneIe = false := rfl
@[simp] theorem resetRegs_width : s.resetRegs.width = 0 := rfl
@[simp] theorem resetRegs_pixLen : s.resetRegs.pixLen = 0 := rfl
@[simp] theorem resetRegs_black : s.resetRegs.black = 50 := rfl
@[simp] theorem resetRegs_notrim : s.resetRegs.notrim = false := rfl
@[simp] theorem resetRegs_gridW : s.resetRegs.gridW = 0 := rfl
@[simp] theorem resetRegs_gridH : s.resetRegs.gridH = 0 := rfl
@[simp] theorem resetRegs_pkLen : s.resetRegs.pkLen = 0 := rfl
@[simp] theorem resetRegs_pkRowlen : s.resetRegs.pkRowlen = 0 := rfl
@[simp] theorem resetRegs_pkW : s.resetRegs.pkW = 0 := rfl
@[simp] theorem resetRegs_pkH : s.resetRegs.pkH = 0 := rfl
@[simp] theorem resetRegs_outLen : s.resetRegs.outLen = 0 := rfl
@[simp] theorem resetRegs_crcAcc : s.resetRegs.crcAcc = 0 := rfl
@[simp] theorem resetRegs_capPix : s.resetRegs.capPix = s.capPix := rfl
@[simp] theorem resetRegs_capGrid : s.resetRegs.capGrid = s.capGrid := rfl
@[simp] theorem resetRegs_capPack : s.resetRegs.capPack = s.capPack := rfl
@[simp] theorem resetRegs_capOut : s.resetRegs.capOut = s.capOut := rfl
@[simp] theorem resetRegs_mem : s.resetRegs.mem = s.mem := rfl
@[simp] theorem resetRegs_seq : s.resetRegs.seq = .idle := rfl
@[simp] theorem resetRegs_inputs : s.resetRegs.inputs = s.inputs := rfl
@[simp] theorem resetRegs_rdata : s.resetRegs.rdata = s.rdata := rfl
@[simp] theorem resetRegs_stalls : s.resetRegs.stalls = s.stalls := rfl
@[simp] theorem resetRegs_started : s.resetRegs.started = s.started := rfl
@[simp] theorem resetRegs_draws : s.resetRegs.draws = s.draws := rfl

end Sys2Proof.Machine
end

