-- ==== Sys2Proof/Laws/Buffers.lean ====
section
/-! SUPPORT. The laws of buffers: a read after a write gives the value written, a write leaves every other element
alone, and every memory operation keeps `Memory.wf`. -/

namespace Sys2Proof.Machine

/-! ## Reads after writes -/

@[simp] theorem ByteBuf.read_write_same (b : ByteBuf) (i : Nat) (v : Byte) : (b.write i v).read i = v := by
  simp [ByteBuf.read, ByteBuf.write]

theorem ByteBuf.read_write_other (b : ByteBuf) {i k : Nat} (h : k ≠ i) (v : Byte) :
    (b.write i v).read k = b.read k := by
  simp [ByteBuf.read, ByteBuf.write, lookupCell_insertCell_other h]

@[simp] theorem BitBuf.read_write_same (b : BitBuf) (i : Nat) (v : Bool) : (b.write i v).read i = v := by
  simp [BitBuf.read, BitBuf.write]

theorem BitBuf.read_write_other (b : BitBuf) {i k : Nat} (h : k ≠ i) (v : Bool) :
    (b.write i v).read k = b.read k := by
  simp [BitBuf.read, BitBuf.write, lookupCell_insertCell_other h]

/-- A read after consecutive writes: the byte written there, or what was there before. -/
theorem ByteBuf.read_writeAll (l : List Byte) (b : ByteBuf) (i k : Nat) :
    (b.writeAll i l).read k = if i ≤ k then (l[k - i]?).getD (b.read k) else b.read k := by
  induction l generalizing b i with
  | nil => simp [ByteBuf.writeAll]
  | cons v r ih =>
    rw [ByteBuf.writeAll, ih]
    rcases Nat.lt_trichotomy k i with h | h | h
    · simp [show ¬ i + 1 ≤ k by omega, show ¬ i ≤ k by omega, ByteBuf.read_write_other b (Nat.ne_of_lt h)]
    · subst h; simp
    · have e : k - i = (k - (i + 1)) + 1 := by omega
      simp [show i + 1 ≤ k by omega, show i ≤ k by omega, ByteBuf.read_write_other b (Nat.ne_of_gt h), e]

/-- The same for cells. -/
theorem BitBuf.read_writeAll (l : List Bool) (b : BitBuf) (i k : Nat) :
    (b.writeAll i l).read k = if i ≤ k then (l[k - i]?).getD (b.read k) else b.read k := by
  induction l generalizing b i with
  | nil => simp [BitBuf.writeAll]
  | cons v r ih =>
    rw [BitBuf.writeAll, ih]
    rcases Nat.lt_trichotomy k i with h | h | h
    · simp [show ¬ i + 1 ≤ k by omega, show ¬ i ≤ k by omega, BitBuf.read_write_other b (Nat.ne_of_lt h)]
    · subst h; simp
    · have e : k - i = (k - (i + 1)) + 1 := by omega
      simp [show i + 1 ≤ k by omega, show i ≤ k by omega, BitBuf.read_write_other b (Nat.ne_of_gt h), e]

/-- Consecutive writes leave every other element alone. -/
theorem ByteBuf.read_writeAll_other {l : List Byte} {i k : Nat} (h : k < i ∨ i + l.length ≤ k) (b : ByteBuf) :
    (b.writeAll i l).read k = b.read k := by
  rw [ByteBuf.read_writeAll]
  split
  · rw [List.getElem?_eq_none (by omega), Option.getD_none]
  · rfl

/-- The same for cells. -/
theorem BitBuf.read_writeAll_other {l : List Bool} {i k : Nat} (h : k < i ∨ i + l.length ≤ k) (b : BitBuf) :
    (b.writeAll i l).read k = b.read k := by
  rw [BitBuf.read_writeAll]
  split
  · rw [List.getElem?_eq_none (by omega), Option.getD_none]
  · rfl

/-- A filled buffer reads as its contents, and as any value beyond them. -/
theorem ByteBuf.read_numbered (l : List Byte) (e k : Nat) :
    (ByteBuf.mk (numberFrom 0 l) e).read k = (l[k]?).getD (Config.anyByte e k) := by
  simp [ByteBuf.read, lookupCell_numberFrom]

/-- The same for cells. -/
theorem BitBuf.read_numbered (l : List Bool) (e k : Nat) :
    (BitBuf.mk (numberFrom 0 l) e).read k = (l[k]?).getD (Config.anyBit e k) := by
  simp [BitBuf.read, lookupCell_numberFrom]

/-! ## Canonical form and bounds -/

theorem ByteBuf.writeAll_rising (l : List Byte) (b : ByteBuf) (i : Nat) (h : rising b.cells = true) :
    rising (b.writeAll i l).cells = true := by
  induction l generalizing b i with
  | nil => exact h
  | cons v r ih => exact ih _ _ (rising_insertCell i v h)

theorem BitBuf.writeAll_rising (l : List Bool) (b : BitBuf) (i : Nat) (h : rising b.cells = true) :
    rising (b.writeAll i l).cells = true := by
  induction l generalizing b i with
  | nil => exact h
  | cons v r ih => exact ih _ _ (rising_insertCell i v h)

theorem ByteBuf.writeAll_below (l : List Byte) (b : ByteBuf) {i n : Nat} (hi : i + l.length ≤ n)
    (h : below n b.cells = true) : below n (b.writeAll i l).cells = true := by
  induction l generalizing b i with
  | nil => exact h
  | cons v r ih =>
    simp at hi
    exact ih _ (by omega) (below_insertCell (by omega) v h)

theorem BitBuf.writeAll_below (l : List Bool) (b : BitBuf) {i n : Nat} (hi : i + l.length ≤ n)
    (h : below n b.cells = true) : below n (b.writeAll i l).cells = true := by
  induction l generalizing b i with
  | nil => exact h
  | cons v r ih =>
    simp at hi
    exact ih _ (by omega) (below_insertCell (by omega) v h)

/-- `Memory.wf`, part by part. -/
theorem Memory.wf_iff (m : Memory) : m.wf = true ↔
    rising m.pix.cells = true ∧ rising m.grid.cells = true ∧ rising m.pack.cells = true ∧
    rising m.out.cells = true := by
  simp [Memory.wf, and_assoc]

theorem Memory.wf_reset : State.reset.mem.wf = true := by decide

theorem wf_setPix {s : State} (h : s.mem.wf = true) {b : ByteBuf} (hb : rising b.cells = true) :
    (s.setPix b).mem.wf = true := by
  simp_all [Memory.wf_iff]

theorem wf_setGrid {s : State} (h : s.mem.wf = true) {b : BitBuf} (hb : rising b.cells = true) :
    (s.setGrid b).mem.wf = true := by
  simp_all [Memory.wf_iff]

theorem wf_setPack {s : State} (h : s.mem.wf = true) {b : ByteBuf} (hb : rising b.cells = true) :
    (s.setPack b).mem.wf = true := by
  simp_all [Memory.wf_iff]

theorem wf_setOut {s : State} (h : s.mem.wf = true) {b : ByteBuf} (hb : rising b.cells = true) :
    (s.setOut b).mem.wf = true := by
  simp_all [Memory.wf_iff]

theorem wf_redrawPix {s : State} (h : s.mem.wf = true) : s.redrawPix.mem.wf = true := by
  simp_all [Memory.wf_iff]

theorem wf_fillGrid {s : State} (h : s.mem.wf = true) (l : List Bool) : (s.fillGrid l).mem.wf = true := by
  simp_all [Memory.wf_iff, rising_numberFrom]

theorem wf_fillPack {s : State} (h : s.mem.wf = true) (l : List Byte) : (s.fillPack l).mem.wf = true := by
  simp_all [Memory.wf_iff, rising_numberFrom]

theorem wf_fillOut {s : State} (h : s.mem.wf = true) (l : List Byte) : (s.fillOut l).mem.wf = true := by
  simp_all [Memory.wf_iff, rising_numberFrom]

/-! ## Bytes -/

/-- Bit `7 - j` of a byte made of bits is the bit it was made of. -/
theorem byteOfBits_getLsbD (f : Nat → Bool) {j : Nat} (h : j < 8) : (byteOfBits f).getLsbD (7 - j) = f j := by
  have e : ∀ b0 b1 b2 b3 b4 b5 b6 b7 : Bool, ∀ j : Fin 8,
      (byteOfBits fun k => [b0, b1, b2, b3, b4, b5, b6, b7].getD k false).getLsbD (7 - j.val)
        = [b0, b1, b2, b3, b4, b5, b6, b7].getD j.val false := by decide
  have hf : byteOfBits f = byteOfBits fun k => [f 0, f 1, f 2, f 3, f 4, f 5, f 6, f 7].getD k false := by
    simp [byteOfBits, List.range, List.range.loop]
  rw [hf, e _ _ _ _ _ _ _ _ ⟨j, h⟩]
  have : j = 0 ∨ j = 1 ∨ j = 2 ∨ j = 3 ∨ j = 4 ∨ j = 5 ∨ j = 6 ∨ j = 7 := by omega
  rcases this with rfl | rfl | rfl | rfl | rfl | rfl | rfl | rfl <;> rfl

@[simp] theorem length_bitsOfByte (v : Byte) : (bitsOfByte v).length = 8 := by simp [bitsOfByte]

@[simp] theorem length_bytesOf (n : Nat) (v : Word) : (bytesOf n v).length = n := by simp [bytesOf]

end Sys2Proof.Machine
end

