-- ==== Sys2Proof/Laws/Encode.lean ====
section
/-! SUPPORT. The outcomes of the ENC stages, and the small facts about the two payloads. -/

namespace Sys2Proof.Machine

/-! ## The end of both ENC stages (R216, R234) -/

theorem writePayload_fits {p : List Byte} {s : State} (h : p.length ≤ s.capOut.toNat) :
    writePayload p s = .ok { s with
      outLen := BitVec.ofNat 32 p.length
      outValid := true
      mem := { s.mem with out := ⟨numberFrom 0 p, s.draws⟩ }
      draws := s.draws + 1 } := by
  rw [writePayload, if_neg (Nat.not_lt.mpr h)]
  rfl

theorem writePayload_overflow {p : List Byte} {s : State} (h : s.capOut.toNat < p.length) :
    writePayload p s = .abort .capacity 4 { s with
      outValid := false
      mem := { s.mem with out := ⟨[], s.draws⟩ }
      draws := s.draws + 1 } := by
  rw [writePayload, if_pos h]
  rfl

theorem length_z64Payload (b : List Byte) : (z64Payload b).length = 10 + b.length := by
  simp [z64Payload, z64Tag, hex4, hex2]
  omega

theorem z64Finish_fail (s : State) :
    z64Finish none s = .abort .compressorFailure 0 { s with
      outValid := false
      mem := { s.mem with out := ⟨[], s.draws⟩ }
      draws := s.draws + 1 } := rfl

theorem z64Finish_fits {d : List Byte} {s : State} (h : 10 + (base64 d).length ≤ s.capOut.toNat) :
    z64Finish (some d) s = .ok { s with
      crcAcc := crc16 (base64 d)
      outLen := BitVec.ofNat 32 (10 + (base64 d).length)
      outValid := true
      mem := { s.mem with out := ⟨numberFrom 0 (z64Payload (base64 d)), s.draws⟩ }
      draws := s.draws + 1 } := by
  simp only [z64Finish]
  rw [writePayload_fits (by rw [length_z64Payload]; exact h), length_z64Payload]

theorem z64Finish_overflow {d : List Byte} {s : State} (h : s.capOut.toNat < 10 + (base64 d).length) :
    z64Finish (some d) s = .abort .capacity 4 { s with
      outValid := false
      mem := { s.mem with out := ⟨[], s.draws⟩ }
      draws := s.draws + 1 } := by
  simp only [z64Finish]
  rw [writePayload_overflow (by rw [length_z64Payload]; exact h)]

/-! ## Base64 characters (R213) -/

theorem base64Char_ascii {n : Nat} (h : n < 64) : (base64Char n).toNat < 128 := by
  have : ∀ n : Fin 64, (base64Char n).toNat < 128 := by decide
  exact this ⟨n, h⟩

theorem base64Char_inj {m n : Nat} (hm : m < 64) (hn : n < 64) (h : base64Char m = base64Char n) : m = n := by
  have : ∀ m n : Fin 64, base64Char m = base64Char n → m = n := by decide
  simpa using this ⟨m, hm⟩ ⟨n, hn⟩ h

/-- R213: a text has four characters for each group of three bytes, the last group filled up. -/
theorem length_base64 : ∀ d : List Byte, (base64 d).length = 4 * ((d.length + 2) / 3)
  | [] => rfl
  | [_] => by simp [base64, base64Group]
  | [_, _] => by simp [base64, base64Group]
  | _ :: _ :: _ :: r => by
    rw [base64, List.length_append, length_base64 r]
    simp [base64Group]
    omega

theorem base64Char_ne_pad {m : Nat} (hm : m < 64) : base64Char m ≠ ord '=' := by
  have : ∀ m : Fin 64, base64Char m ≠ ord '=' := by decide
  exact this ⟨m, hm⟩

/-! ## Hex text and its runs (R231, R232) -/

/-- A text put together again from its runs. -/
def unruns (l : List (Byte × Nat)) : List Byte := l.flatMap fun p => List.replicate p.2 p.1

theorem unruns_runsOf (l : List Byte) : unruns (runsOf l) = l := by
  induction l with
  | nil => rfl
  | cons d ds ih =>
    rw [runsOf]
    split
    · next e => rw [e] at ih; simp [unruns] at ih ⊢; exact ih
    · next e n rs he =>
      rw [he] at ih
      split
      · next hd => subst hd; rw [← ih]; simp [unruns, List.replicate_succ]
      · rw [← ih]; simp [unruns]

/-- R232: what `runsOf` gives: no run is empty, and neighbouring runs have different digits. -/
theorem runsOf_maximal (l : List Byte) :
    (∀ r ∈ runsOf l, 1 ≤ r.2) ∧ (runsOf l).IsChain fun a b => a.1 ≠ b.1 := by
  induction l with
  | nil => simp [runsOf]
  | cons d ds ih =>
    rw [runsOf]
    split
    · simp
    · next e n rs he =>
      rw [he] at ih
      obtain ⟨hpos, hch⟩ := ih
      simp only [List.mem_cons, forall_eq_or_imp] at hpos
      split
      · next hd =>
        subst hd
        refine ⟨by simpa using hpos.2, ?_⟩
        cases rs <;> simp_all [List.isChain_cons_cons]
      · next hd => exact ⟨by simpa using hpos, List.isChain_cons_cons.mpr ⟨hd, hch⟩⟩

/-- R232: such runs are the runs of the text they make. -/
theorem runsOf_unruns : ∀ rs : List (Byte × Nat), (∀ r ∈ rs, 1 ≤ r.2) → (rs.IsChain fun a b => a.1 ≠ b.1) →
    runsOf (unruns rs) = rs
  | [], _, _ => rfl
  | (d, n) :: rs, hpos, hch => by
    have ih := runsOf_unruns rs (fun r hr => hpos r (by simp [hr])) hch.tail
    obtain ⟨m, rfl⟩ : ∃ m, n = m + 1 := ⟨n - 1, by have := hpos (d, n) (by simp); simp at this; omega⟩
    rw [show unruns ((d, m + 1) :: rs) = List.replicate (m + 1) d ++ unruns rs by simp [unruns]]
    clear hpos
    induction m with
    | zero =>
      show runsOf (d :: unruns rs) = _
      rw [runsOf, ih]
      cases rs <;> simp_all [List.isChain_cons_cons]
    | succ m ihm =>
      have hch' : List.IsChain (fun a b : Byte × Nat => a.1 ≠ b.1) ((d, m + 1) :: rs) := by
        cases rs <;> simp_all [List.isChain_cons_cons]
      rw [List.replicate_succ, List.cons_append, runsOf, ihm hch']
      simp

theorem length_hexText (bs : List Byte) : (hexText bs).length = 2 * bs.length := by
  induction bs with
  | nil => rfl
  | cons b bs ih =>
    simp only [hexText, hex2, List.flatMap_cons, List.length_append, List.length_cons, List.length_nil] at *
    omega

theorem length_acsCount {len : Nat} (h : 3 ≤ len) : (acsCount len).length + 1 ≤ len := by
  simp only [acsCount, List.length_append, List.length_replicate]
  split <;> split <;> simp <;> omega

end Sys2Proof.Machine
end

