-- ==== Sys2Proof/Laws/Sequencer.lean ====
section
/-! SUPPORT. What the shared operations of the command frame can do: one lemma per outcome of `issue`, of a stage, and
of a stage's end. -/

namespace Sys2Proof.Machine

theorem busy_eq_false {s : State} (h : s.seq = .idle) : s.busy = false := by simp [State.busy, h]

theorem busy_eq_true {s : State} (h : s.seq ≠ .idle) : s.busy = true := by
  unfold State.busy
  split
  · contradiction
  · rfl

theorem busy_iff (s : State) : s.busy = true ↔ s.seq ≠ .idle :=
  ⟨fun h e => by simp [busy_eq_false e] at h, busy_eq_true⟩

@[simp] theorem nextStall_clearReport (s : State) : s.clearReport.nextStall = s.nextStall := rfl

theorem nextStall_cons {s : State} {d : Nat} {r : List Nat} (h : s.stalls = d :: r) : s.nextStall = d := by
  simp [State.nextStall, h]

/-! ## The frame (R100) -/

/-- R106: a command issued while one runs is dropped. -/
theorem issue_busy {s : State} (h : s.seq ≠ .idle) (cmd : Instr) (check : State → Option (ErrCode × Word)) :
    issue cmd check s = { s with conflict := true } := by
  simp [issue, busy_eq_true h, State.dropWrite]

/-- R103: a failing acceptance check rejects, and nothing but the report changes. -/
theorem issue_reject {s : State} (h : s.seq = .idle) {cmd : Instr} {check : State → Option (ErrCode × Word)}
    {code : ErrCode} {info : Word} (hc : check s.clearReport = some (code, info)) :
    issue cmd check s = s.rejected code info := by
  simp only [issue, busy_eq_false h, hc]
  rfl

/-- R101: acceptance. -/
theorem issue_accept {s : State} (h : s.seq = .idle) {cmd : Instr} {check : State → Option (ErrCode × Word)}
    {st : Stage} {rest : List Stage} (hs : stagesOf cmd = st :: rest) (hc : check s.clearReport = none) :
    issue cmd check s = s.clearReport.accept cmd st rest := by
  simp [issue, busy_eq_false h, hc, hs]

/-- R105: how a stage ends the command it is the last stage of. -/
def StageEnd.finish : StageEnd → State
  | .ok s => s.complete
  | .abort code info s => (s.report code info).complete

theorem runStages_last (cmd : Instr) (st : Stage) (s : State) :
    runStages cmd st [] s = (runStage st s).finish := by
  unfold runStages
  cases runStage st s <;> rfl

/-- R104: an abort runs no later stage. -/
theorem runStages_abort {st : Stage} {s s1 : State} {code : ErrCode} {info : Word}
    (h : runStage st s = .abort code info s1) (cmd : Instr) (rest : List Stage) :
    runStages cmd st rest s = (s1.report code info).complete := by
  unfold runStages
  simp [h]

/-- R108: a stage that succeeds is followed by the next one. -/
theorem runStages_next {st : Stage} {s s1 : State} (h : runStage st s = .ok s1) (cmd : Instr) (st' : Stage)
    (rest : List Stage) :
    runStages cmd st (st' :: rest) s =
      if s1.nextStall = 0 then runStages cmd st' rest (s1.enter cmd st' rest) else s1.enter cmd st' rest := by
  conv_lhs => unfold runStages
  simp [h]

/-- A command of one stage that takes no time. -/
theorem issue_one_now {s : State} (h : s.seq = .idle) (h0 : s.nextStall = 0) {cmd : Instr}
    {check : State → Option (ErrCode × Word)} {st : Stage} (hs : stagesOf cmd = [st])
    (hc : check s.clearReport = none) :
    issue cmd check s = (runStage st (s.clearReport.enter cmd st [])).finish := by
  rw [issue_accept h hs hc, State.accept]
  simp [h0, runStages_last]

/-- A command whose first stage takes time: it runs, and has reported nothing. -/
theorem issue_waits {s : State} (h : s.seq = .idle) (h0 : s.nextStall ≠ 0) {cmd : Instr}
    {check : State → Option (ErrCode × Word)} {st : Stage} {rest : List Stage} (hs : stagesOf cmd = st :: rest)
    (hc : check s.clearReport = none) :
    issue cmd check s = s.clearReport.enter cmd st rest := by
  rw [issue_accept h hs hc, State.accept]
  simp [h0]

/-- Every outcome of `issue` on a command with stages. -/
theorem issue_cases (cmd : Instr) (check : State → Option (ErrCode × Word)) (s : State) {st : Stage}
    {rest : List Stage} (hs : stagesOf cmd = st :: rest) :
    (s.seq ≠ .idle ∧ issue cmd check s = { s with conflict := true }) ∨
    (s.seq = .idle ∧ ∃ code info, check s.clearReport = some (code, info) ∧
      issue cmd check s = s.rejected code info) ∨
    (s.seq = .idle ∧ check s.clearReport = none ∧ issue cmd check s = s.clearReport.accept cmd st rest) := by
  by_cases h : s.seq = .idle
  · cases hc : check s.clearReport with
    | none => exact .inr (.inr ⟨h, rfl, issue_accept h hs hc⟩)
    | some p => exact .inr (.inl ⟨h, p.1, p.2, rfl, issue_reject h hc⟩)
  · exact .inl ⟨h, issue_busy h cmd check⟩

end Sys2Proof.Machine
end

