-- ==== Sys2Proof/Laws/Thresh.lean ====
section
/-! SUPPORT. The trimmer's search for the bounding box, the size of the window, and the cells the THRESH stage
writes. -/

namespace Sys2Proof.Machine

theorem firstIn_some {n k : Nat} {p : Nat → Bool} :
    firstIn n p = some k ↔ k < n ∧ p k = true ∧ ∀ j, j < k → p j = false := by
  simp [firstIn, List.find?_range_eq_some]
  tauto

theorem firstIn_none {n : Nat} {p : Nat → Bool} : firstIn n p = none ↔ ∀ k, k < n → p k = false := by
  simp [firstIn]

theorem lastIn_succ (n : Nat) (p : Nat → Bool) : lastIn (n + 1) p = if p n then some n else lastIn n p := by
  simp only [lastIn, List.range_succ, List.reverse_append, List.reverse_cons, List.reverse_nil, List.nil_append,
    List.singleton_append, List.find?_cons]
  cases p n <;> rfl

theorem lastIn_some {n k : Nat} {p : Nat → Bool} :
    lastIn n p = some k ↔ k < n ∧ p k = true ∧ ∀ j, k < j → j < n → p j = false := by
  induction n with
  | zero => simp [lastIn]
  | succ n ih =>
    rw [lastIn_succ]
    by_cases h : p n = true
    · simp only [h, if_true, Option.some.injEq]
      constructor
      · rintro rfl; exact ⟨by omega, h, fun j _ _ => by omega⟩
      · rintro ⟨hk, _, hj⟩
        by_contra hne
        have := hj n (by omega) (by omega)
        simp [h] at this
    · simp only [h, Bool.false_eq_true, if_false, ih]
      simp at h
      constructor
      · rintro ⟨hk, hp, hj⟩
        refine ⟨by omega, hp, fun j h1 h2 => ?_⟩
        rcases Nat.lt_or_eq_of_le (Nat.le_of_lt_succ h2) with h3 | rfl
        · exact hj j h1 h3
        · exact h
      · rintro ⟨hk, hp, hj⟩
        have : k ≠ n := by rintro rfl; simp [h] at hp
        exact ⟨by omega, hp, fun j h1 h2 => hj j h1 (by omega)⟩

theorem lastIn_none {n : Nat} {p : Nat → Bool} : lastIn n p = none ↔ ∀ k, k < n → p k = false := by
  simp [lastIn]

theorem rowInk_iff {w : Nat} {f : Nat → Nat → Bool} {y : Nat} :
    rowInk w f y = true ↔ ∃ x, x < w ∧ f x y = true := by simp [rowInk]

theorem colInk_iff {h : Nat} {f : Nat → Nat → Bool} {x : Nat} :
    colInk h f x = true ↔ ∃ y, y < h ∧ f x y = true := by simp [colInk]

/-- R156: there is no bounding box exactly when there is no ink. -/
theorem boundingBox_none {w h : Nat} {f : Nat → Nat → Bool} :
    boundingBox w h f = none ↔ ∀ x y, x < w → y < h → f x y = false := by
  constructor
  · intro hb x y hx hy
    by_contra hne
    have hf : f x y = true := by simpa using hne
    have hr : rowInk w f y = true := rowInk_iff.2 ⟨x, hx, hf⟩
    have hc : colInk h f x = true := colInk_iff.2 ⟨y, hy, hf⟩
    unfold boundingBox at hb
    split at hb
    · split at hb
      · simp at hb
      · rename_i hno
        cases h1 : firstIn w (colInk h f) with
        | none => simp [firstIn_none.1 h1 x hx] at hc
        | some a =>
          cases h2 : lastIn w (colInk h f) with
          | none => simp [lastIn_none.1 h2 x hx] at hc
          | some b => exact hno a b h1 h2
    · rename_i hno
      cases h1 : firstIn h (rowInk w f) with
      | none => simp [firstIn_none.1 h1 y hy] at hr
      | some a =>
        cases h2 : lastIn h (rowInk w f) with
        | none => simp [lastIn_none.1 h2 y hy] at hr
        | some b => exact hno a b h1 h2
  · intro hno
    have : firstIn h (rowInk w f) = none := by
      rw [firstIn_none]
      intro y hy
      by_contra hne
      obtain ⟨x, hx, hf⟩ := rowInk_iff.1 (by simpa using hne : rowInk w f y = true)
      simp [hno x y hx hy] at hf
    unfold boundingBox
    simp [this]

/-- R156: what the bounding box is. -/
theorem boundingBox_some {w h : Nat} {f : Nat → Nat → Bool} {v : Window} (hb : boundingBox w h f = some v) :
    ∃ x1 y1, v.w = x1 - v.x0 + 1 ∧ v.h = y1 - v.y0 + 1 ∧ v.x0 ≤ x1 ∧ v.y0 ≤ y1 ∧ x1 < w ∧ y1 < h ∧
      (∃ y, y < h ∧ f v.x0 y = true) ∧ (∃ y, y < h ∧ f x1 y = true) ∧
      (∃ x, x < w ∧ f x v.y0 = true) ∧ (∃ x, x < w ∧ f x y1 = true) ∧
      ∀ x y, x < w → y < h → f x y = true → v.x0 ≤ x ∧ x ≤ x1 ∧ v.y0 ≤ y ∧ y ≤ y1 := by
  unfold boundingBox at hb
  split at hb
  · rename_i y0 y1 hy0 hy1
    split at hb
    · rename_i x0 x1 hx0 hx1
      simp only [Option.some.injEq] at hb
      subst hb
      obtain ⟨a1, a2, a3⟩ := firstIn_some.1 hy0
      obtain ⟨b1, b2, b3⟩ := lastIn_some.1 hy1
      obtain ⟨c1, c2, c3⟩ := firstIn_some.1 hx0
      obtain ⟨d1, d2, d3⟩ := lastIn_some.1 hx1
      have hall : ∀ x y, x < w → y < h → f x y = true → x0 ≤ x ∧ x ≤ x1 ∧ y0 ≤ y ∧ y ≤ y1 := by
        intro x y hx hy hf
        have hr : rowInk w f y = true := rowInk_iff.2 ⟨x, hx, hf⟩
        have hc : colInk h f x = true := colInk_iff.2 ⟨y, hy, hf⟩
        refine ⟨?_, ?_, ?_, ?_⟩ <;> by_contra hlt <;> push Not at hlt
        · simp [c3 x hlt] at hc
        · simp [d3 x hlt hx] at hc
        · simp [a3 y hlt] at hr
        · simp [b3 y hlt hy] at hr
      obtain ⟨yy, hyy, hfy⟩ := colInk_iff.1 c2
      obtain ⟨xx, hxx, hfx⟩ := rowInk_iff.1 a2
      exact ⟨x1, y1, rfl, rfl, (hall _ _ c1 hyy hfy).2.1, (hall _ _ hxx a1 hfx).2.2.2, d1, b1,
        ⟨yy, hyy, hfy⟩, colInk_iff.1 d2, ⟨xx, hxx, hfx⟩, rowInk_iff.1 b2, hall⟩
    · simp at hb
  · simp at hb

/-! ## The window -/

/-- The window lies in the image. -/
theorem window_in_image (s : State) :
    s.window.x0 + s.window.w ≤ s.columns ∧ s.window.y0 + s.window.h ≤ s.rows := by
  unfold State.window
  split
  · simp
  · cases hb : boundingBox s.columns s.rows s.inkAt with
    | none => simp
    | some v =>
      obtain ⟨x1, y1, h1, h2, h3, h4, h5, h6, -⟩ := boundingBox_some hb
      simp; omega

theorem columns_lt (s : State) : s.columns < 2 ^ 31 := by
  have := BitVec.toInt_lt (x := s.width)
  simp only [State.columns, State.imageWidth]
  simp at this
  omega

theorem rows_lt (s : State) : s.rows < 2 ^ 32 := by
  have := s.pixLen.isLt
  exact Nat.lt_of_le_of_lt (Nat.div_le_self _ _) this

theorem window_w_lt (s : State) : s.window.w < 2 ^ 32 := by
  have := window_in_image s
  have := columns_lt s
  omega

theorem window_h_lt (s : State) : s.window.h < 2 ^ 32 := by
  have := window_in_image s
  have := rows_lt s
  omega

/-- A trim that finds no ink has an empty window. -/
theorem window_noInk {s : State} (h : s.noInk = true) : s.window = ⟨0, 0, 0, 0⟩ := by
  simp [State.noInk] at h
  simp [State.window, h.1, h.2]

/-! ## Cells written row by row -/

/-- Element `y * w + x` of `h` rows of `w` elements. -/
theorem rows_getElem? {α : Type} (f : Nat → Nat → α) (w h : Nat) {x y : Nat} (hx : x < w) (hy : y < h) :
    ((List.range h).flatMap fun y => (List.range w).map fun x => f x y)[y * w + x]? = some (f x y) := by
  induction h with
  | zero => omega
  | succ h ih =>
    have hlen : ((List.range h).flatMap fun y => (List.range w).map fun x => f x y).length = h * w := by
      simp
    rw [List.range_succ, List.flatMap_append]
    rcases Nat.lt_or_eq_of_le (Nat.le_of_lt_succ hy) with hlt | rfl
    · rw [List.getElem?_append_left (by rw [hlen]; nlinarith)]
      exact ih hlt
    · rw [List.getElem?_append_right (by rw [hlen]; omega), hlen]
      simp [hx]

theorem length_rows {α : Type} (f : Nat → Nat → α) (w h : Nat) :
    ((List.range h).flatMap fun y => (List.range w).map fun x => f x y).length = h * w := by simp

theorem length_windowCells (v : Window) (f : Nat → Nat → Bool) : (windowCells v f).length = v.h * v.w := by
  simp [windowCells]

/-- R41, R157: the cell of a window at (x, y). -/
theorem windowCells_getElem? (v : Window) (f : Nat → Nat → Bool) {x y : Nat} (hx : x < v.w) (hy : y < v.h) :
    (windowCells v f)[y * v.w + x]? = some (f (v.x0 + x) (v.y0 + y)) :=
  rows_getElem? (fun x y => f (v.x0 + x) (v.y0 + y)) v.w v.h hx hy

/-! ## The stage -/

/-- R157: the THRESH stage whose grid fits. -/
theorem threshStage_fits {s : State} (h : s.window.w * s.window.h ≤ s.capGrid.toNat) :
    threshStage s = .ok { s with
      empty := s.empty || s.noInk
      gridW := BitVec.ofNat 32 s.window.w, gridH := BitVec.ofNat 32 s.window.h, gridValid := true
      mem := { s.mem with grid := ⟨numberFrom 0 (windowCells s.window s.inkAt), s.draws⟩ }
      draws := s.draws + 1 } := by
  simp only [threshStage, if_neg (Nat.not_lt.mpr h)]
  rfl

/-- R104, R157: the THRESH stage whose grid does not fit. -/
theorem threshStage_overflow {s : State} (h : s.capGrid.toNat < s.window.w * s.window.h) :
    threshStage s = .abort .capacity 2 { s with
      gridValid := false
      mem := { s.mem with grid := ⟨[], s.draws⟩ }
      draws := s.draws + 1 } := by
  have hn : s.noInk = false := by
    by_contra hne
    have := window_noInk (s := s) (by simpa using hne)
    simp [this] at h
  simp only [threshStage, if_pos h, hn, Bool.or_false]
  rfl

/-- R151: the acceptance checks pass on legal operands. -/
theorem threshCheck_none {s : State} (hw : 0 < s.width.toInt) (h1 : 1 ≤ s.black.toNat) (h2 : s.black.toNat ≤ 99)
    (hl : s.pixLen.toNat ≤ s.capPix.toNat) : threshCheck s = none := by
  have h0 : ¬ s.imageWidth ≤ 0 := by simp only [State.imageWidth]; omega
  rw [threshCheck, if_neg h0, if_neg (by omega), if_neg (by omega)]

end Sys2Proof.Machine
end

