-- ==== Sys2Proof/Laws/Pack.lean ====
section
/-! SUPPORT. The packed bytes, bit by bit, and the outcomes of the PACK stage. -/

namespace Sys2Proof.Machine

theorem length_packBytes (w' h' : Nat) (o : Nat → Nat → Bool) : (packBytes w' h' o).length = ceil8 w' * h' := by
  simp [packBytes, Nat.mul_comm]

/-- R181: byte `k` of row `r`. -/
theorem packBytes_getElem? (w' h' : Nat) (o : Nat → Nat → Bool) {r k : Nat} (hk : k < ceil8 w') (hr : r < h') :
    (packBytes w' h' o)[r * ceil8 w' + k]? = some (packByte w' o r k) :=
  rows_getElem? (fun k r => packByte w' o r k) (ceil8 w') h' hk hr

/-- R10, R181: bit `7 - j` of byte `k` of row `r`. -/
theorem packByte_getLsbD (w' : Nat) (o : Nat → Nat → Bool) (r k : Nat) {j : Nat} (hj : j < 8) :
    (packByte w' o r k).getLsbD (7 - j) = (decide (8 * k + j < w') && o r (8 * k + j)) :=
  byteOfBits_getLsbD _ hj

theorem packByte_congr {w' : Nat} {o o' : Nat → Nat → Bool} {r : Nat} (h : ∀ c, c < w' → o r c = o' r c) (k : Nat) :
    packByte w' o r k = packByte w' o' r k := by
  unfold packByte
  congr 1
  funext j
  by_cases hc : 8 * k + j < w'
  · simp [hc, h _ hc]
  · simp [hc]

/-- The packed bytes depend on the output cells only. -/
theorem packBytes_congr {w' h' : Nat} {o o' : Nat → Nat → Bool} (h : ∀ r c, r < h' → c < w' → o r c = o' r c) :
    packBytes w' h' o = packBytes w' h' o' := by
  apply List.flatMap_congr
  intro r hr
  apply List.map_congr_left
  intro k _
  exact packByte_congr (fun c hc => h r c (by simpa using hr) hc) k

/-- R182 to R186: an output cell is read from an input cell of the grid. -/
theorem outCell_congr (o : Orient) {w h : Nat} {g g' : Nat → Nat → Bool}
    (e : ∀ x y, x < w → y < h → g x y = g' x y) {r c : Nat} (hr : r < (outDims o w h).2) (hc : c < (outDims o w h).1) :
    outCell o w h g r c = outCell o w h g' r c := by
  cases o <;> simp only [outDims] at hr hc <;> exact e _ _ (by omega) (by omega)

/-- R187: the PACK stage whose bitmap fits. -/
theorem packStage_fits {s : State} {o : Orient}
    (h : ceil8 (outDims o s.gridW.toNat s.gridH.toNat).1 * (outDims o s.gridW.toNat s.gridH.toNat).2
      ≤ s.capPack.toNat) :
    packStage o s = .ok { s with
      pkLen := BitVec.ofNat 32 (ceil8 (outDims o s.gridW.toNat s.gridH.toNat).1 *
        (outDims o s.gridW.toNat s.gridH.toNat).2)
      pkRowlen := BitVec.ofNat 32 (ceil8 (outDims o s.gridW.toNat s.gridH.toNat).1)
      pkW := BitVec.ofNat 32 (outDims o s.gridW.toNat s.gridH.toNat).1
      pkH := BitVec.ofNat 32 (outDims o s.gridW.toNat s.gridH.toNat).2
      packValid := true
      mem := { s.mem with pack := ⟨numberFrom 0 (s.packResult o), s.draws⟩ }
      draws := s.draws + 1 } := by
  have : s.packTooBig o = false := by simp only [State.packTooBig, State.outDims]; simpa using h
  simp only [packStage, this]
  rfl

/-- R104, R110: the PACK stage whose bitmap does not fit. -/
theorem packStage_overflow {s : State} {o : Orient}
    (h : s.capPack.toNat < ceil8 (outDims o s.gridW.toNat s.gridH.toNat).1 *
      (outDims o s.gridW.toNat s.gridH.toNat).2) :
    packStage o s = .abort .capacity 3 { s with
      packValid := false
      mem := { s.mem with pack := ⟨[], s.draws⟩ }
      draws := s.draws + 1 } := by
  have : s.packTooBig o = true := by simp only [State.packTooBig, State.outDims]; simpa using h
  simp only [packStage, this]
  rfl

end Sys2Proof.Machine
end

