-- ==== Sys2Proof/Laws/Stages.lean ====
section
/-! SUPPORT. What a stage and a run of stages can do: the frame of each stage, and one induction over the stages of a
command for the claims about `runStages`. -/

namespace Sys2Proof.Machine

/-- The state a stage ends in. -/
def StageEnd.state : StageEnd → State
  | .ok s => s
  | .abort _ _ s => s

/-! ## The frame of a stage (R102) -/

/-- What no stage changes. -/
def SameOutside (s t : State) : Prop :=
  t.width = s.width ∧ t.pixLen = s.pixLen ∧ t.black = s.black ∧ t.notrim = s.notrim ∧ t.doneIe = s.doneIe ∧
  t.mem.pix = s.mem.pix ∧ t.capPix = s.capPix ∧ t.capGrid = s.capGrid ∧ t.capPack = s.capPack ∧
  t.capOut = s.capOut ∧ t.inputs = s.inputs ∧ t.rdata = s.rdata ∧ t.conflict = s.conflict

/-- GRID, its descriptors and EMPTY. -/
def SameGrid (s t : State) : Prop :=
  t.mem.grid = s.mem.grid ∧ t.gridW = s.gridW ∧ t.gridH = s.gridH ∧ t.empty = s.empty

/-- PACK and its descriptors. -/
def SamePack (s t : State) : Prop :=
  t.mem.pack = s.mem.pack ∧ t.pkLen = s.pkLen ∧ t.pkRowlen = s.pkRowlen ∧ t.pkW = s.pkW ∧ t.pkH = s.pkH

/-- OUT, OUT_LEN and OUT_VALID. -/
def SameOut (s t : State) : Prop := t.mem.out = s.mem.out ∧ t.outLen = s.outLen ∧ t.outValid = s.outValid

/-- The checksum accumulator and its error bit. -/
def SameCrc (s t : State) : Prop := t.crcAcc = s.crcAcc ∧ t.crcErr = s.crcErr

theorem threshStage_frame (s : State) :
    SameOutside s (threshStage s).state ∧ SamePack s (threshStage s).state ∧ SameOut s (threshStage s).state ∧
    SameCrc s (threshStage s).state ∧ (threshStage s).state.packValid = s.packValid := by
  by_cases h : s.window.w * s.window.h ≤ s.capGrid.toNat
  · rw [threshStage_fits h]; simp [StageEnd.state, SameOutside, SamePack, SameOut, SameCrc]
  · rw [threshStage_overflow (Nat.lt_of_not_le h)]; simp [StageEnd.state, SameOutside, SamePack, SameOut, SameCrc]

theorem packStage_frame (o : Orient) (s : State) :
    SameOutside s (packStage o s).state ∧ SameGrid s (packStage o s).state ∧ SameOut s (packStage o s).state ∧
    SameCrc s (packStage o s).state ∧ (packStage o s).state.gridValid = s.gridValid := by
  by_cases h : ceil8 (outDims o s.gridW.toNat s.gridH.toNat).1 * (outDims o s.gridW.toNat s.gridH.toNat).2
      ≤ s.capPack.toNat
  · rw [packStage_fits h]; simp [StageEnd.state, SameOutside, SameGrid, SameOut, SameCrc]
  · rw [packStage_overflow (Nat.lt_of_not_le h)]; simp [StageEnd.state, SameOutside, SameGrid, SameOut, SameCrc]

theorem writePayload_frame (p : List Byte) (s : State) :
    SameOutside s (writePayload p s).state ∧ SameGrid s (writePayload p s).state ∧
    SamePack s (writePayload p s).state ∧ SameCrc s (writePayload p s).state ∧
    (writePayload p s).state.gridValid = s.gridValid ∧ (writePayload p s).state.packValid = s.packValid := by
  unfold writePayload
  split <;> simp [StageEnd.state, abortOut, SameOutside, SameGrid, SamePack, SameCrc]

theorem z64Finish_frame (r : Option (List Byte)) (s : State) :
    SameOutside s (z64Finish r s).state ∧ SameGrid s (z64Finish r s).state ∧ SamePack s (z64Finish r s).state ∧
    (z64Finish r s).state.gridValid = s.gridValid ∧ (z64Finish r s).state.packValid = s.packValid := by
  cases r with
  | none => simp [z64Finish, StageEnd.state, abortOut, SameOutside, SameGrid, SamePack]
  | some d =>
    have h := writePayload_frame (z64Payload (base64 d)) s
    unfold z64Finish
    simp only
    cases hp : writePayload (z64Payload (base64 d)) s with
    | ok s1 => rw [hp] at h; exact ⟨h.1, h.2.1, h.2.2.1, h.2.2.2.2⟩
    | abort c i s1 => rw [hp] at h; exact ⟨h.1, h.2.1, h.2.2.1, h.2.2.2.2⟩

/-- R102: no stage changes what lies outside the command's destination. -/
theorem runStage_outside (st : Stage) (s : State) : SameOutside s (runStage st s).state := by
  match st with
  | .crcInit | .loadGrid | .loadPack => simp [runStage, StageEnd.state, SameOutside, crcInitStage, loadGridStage, loadPackStage]
  | .thresh => exact (threshStage_frame s).1
  | .pack o => exact (packStage_frame o s).1
  | .enc .z64 => exact (z64Finish_frame _ s).1
  | .enc .acs => exact (writePayload_frame _ s).1

theorem runStage_grid {st : Stage} (h : st ≠ .thresh) (s : State) : SameGrid s (runStage st s).state := by
  match st with
  | .crcInit | .loadGrid | .loadPack => simp [runStage, StageEnd.state, SameGrid, crcInitStage, loadGridStage, loadPackStage]
  | .thresh => exact absurd rfl h
  | .pack o => exact (packStage_frame o s).2.1
  | .enc .z64 => exact (z64Finish_frame _ s).2.1
  | .enc .acs => exact (writePayload_frame _ s).2.1

theorem runStage_gridValid {st : Stage} (h : st ≠ .thresh) (h' : st ≠ .loadGrid) (s : State) :
    (runStage st s).state.gridValid = s.gridValid := by
  match st with
  | .crcInit | .loadPack => rfl
  | .loadGrid => exact absurd rfl h'
  | .thresh => exact absurd rfl h
  | .pack o => exact (packStage_frame o s).2.2.2.2
  | .enc .z64 => exact (z64Finish_frame _ s).2.2.2.1
  | .enc .acs => exact (writePayload_frame _ s).2.2.2.2.1

theorem runStage_pack {st : Stage} (h : st.toPack = false) (s : State) : SamePack s (runStage st s).state := by
  match st with
  | .crcInit | .loadGrid | .loadPack => simp [runStage, StageEnd.state, SamePack, crcInitStage, loadGridStage, loadPackStage]
  | .thresh => exact (threshStage_frame s).2.1
  | .pack o => simp [Stage.toPack] at h
  | .enc .z64 => exact (z64Finish_frame _ s).2.2.1
  | .enc .acs => exact (writePayload_frame _ s).2.2.1

theorem runStage_packValid {st : Stage} (h : st.toPack = false) (h' : st ≠ .loadPack) (s : State) :
    (runStage st s).state.packValid = s.packValid := by
  match st with
  | .crcInit | .loadGrid => rfl
  | .loadPack => exact absurd rfl h'
  | .thresh => exact (threshStage_frame s).2.2.2.2
  | .pack o => simp [Stage.toPack] at h
  | .enc .z64 => exact (z64Finish_frame _ s).2.2.2.2
  | .enc .acs => exact (writePayload_frame _ s).2.2.2.2.2

theorem runStage_out {st : Stage} (h : st.toOut = false) (s : State) : SameOut s (runStage st s).state := by
  match st with
  | .crcInit | .loadGrid | .loadPack => simp [runStage, StageEnd.state, SameOut, crcInitStage, loadGridStage, loadPackStage]
  | .thresh => exact (threshStage_frame s).2.2.1
  | .pack o => exact (packStage_frame o s).2.2.1
  | .enc f => simp [Stage.toOut] at h

theorem runStage_crc {st : Stage} (h : st ≠ .crcInit) (h' : st ≠ .enc .z64) (s : State) :
    SameCrc s (runStage st s).state := by
  match st with
  | .crcInit => exact absurd rfl h
  | .loadGrid | .loadPack => simp [runStage, StageEnd.state, SameCrc, loadGridStage, loadPackStage]
  | .thresh => exact (threshStage_frame s).2.2.2.1
  | .pack o => exact (packStage_frame o s).2.2.2.1
  | .enc .z64 => exact absurd rfl h'
  | .enc .acs => exact (writePayload_frame _ s).2.2.2.1

/-- Every stage keeps the canonical form of memory. -/
theorem wf_runStage (st : Stage) {s : State} (h : s.mem.wf = true) : (runStage st s).state.mem.wf = true := by
  have hw := (Memory.wf_iff _).mp h
  have out : ∀ l : List Byte, Memory.wf { s.mem with out := ⟨numberFrom 0 l, s.draws⟩ } = true := fun l =>
    (Memory.wf_iff _).mpr ⟨hw.1, hw.2.1, hw.2.2.1, rising_numberFrom _ _⟩
  have pay : ∀ p : List Byte, (writePayload p s).state.mem.wf = true := by
    intro p
    by_cases hp : p.length ≤ s.capOut.toNat
    · rw [writePayload_fits hp]; exact out p
    · rw [writePayload_overflow (Nat.lt_of_not_le hp)]; exact out []
  match st with
  | .crcInit | .loadGrid | .loadPack => exact h
  | .thresh =>
    show (threshStage s).state.mem.wf = true
    by_cases hf : s.window.w * s.window.h ≤ s.capGrid.toNat
    · rw [threshStage_fits hf]
      exact (Memory.wf_iff _).mpr ⟨hw.1, rising_numberFrom _ _, hw.2.2.1, hw.2.2.2⟩
    · rw [threshStage_overflow (Nat.lt_of_not_le hf)]
      exact (Memory.wf_iff _).mpr ⟨hw.1, rfl, hw.2.2.1, hw.2.2.2⟩
  | .pack o =>
    show (packStage o s).state.mem.wf = true
    by_cases hf : ceil8 (outDims o s.gridW.toNat s.gridH.toNat).1 * (outDims o s.gridW.toNat s.gridH.toNat).2
        ≤ s.capPack.toNat
    · rw [packStage_fits hf]
      exact (Memory.wf_iff _).mpr ⟨hw.1, hw.2.1, rising_numberFrom _ _, hw.2.2.2⟩
    · rw [packStage_overflow (Nat.lt_of_not_le hf)]
      exact (Memory.wf_iff _).mpr ⟨hw.1, hw.2.1, rfl, hw.2.2.2⟩
  | .enc .z64 =>
    show (z64Finish (Config.deflate s.packed) s).state.mem.wf = true
    cases Config.deflate s.packed with
    | none => rw [z64Finish_fail]; exact out []
    | some d =>
      by_cases hp : 10 + (base64 d).length ≤ s.capOut.toNat
      · rw [z64Finish_fits hp]; exact out _
      · rw [z64Finish_overflow (Nat.lt_of_not_le hp)]; exact out []
  | .enc .acs => exact pay _

/-- The start of a stage changes EMPTY (THRESH) or the checksum (ENC.Z64), and nothing else. -/
theorem stageStart_eq (st : Stage) (s : State) :
    stageStart st s = { s with
      empty := if st = .thresh then false else s.empty
      crcErr := if st = .enc .z64 then false else s.crcErr
      crcAcc := if st = .enc .z64 then 0 else s.crcAcc } := by
  match st with
  | .crcInit | .loadGrid | .loadPack | .thresh | .pack _ | .enc .z64 | .enc .acs => rfl

/-! ## Runs of stages -/

/-- One induction for every claim about the end of a command: `P` holds where a stage is about to end, `Q` of what
`runStages` answers. -/
theorem runStages_induct {cmd : Instr} {P : Stage → List Stage → State → Prop} {Q : State → Prop}
    (abort : ∀ st rest s code info s1, P st rest s → runStage st s = .abort code info s1 →
      Q (s1.report code info).complete)
    (last : ∀ st s s1, P st [] s → runStage st s = .ok s1 → Q s1.complete)
    (wait : ∀ st st' rest s s1, P st (st' :: rest) s → runStage st s = .ok s1 → Q (s1.enter cmd st' rest))
    (next : ∀ st st' rest s s1, P st (st' :: rest) s → runStage st s = .ok s1 → P st' rest (s1.enter cmd st' rest)) :
    ∀ rest st s, P st rest s → Q (runStages cmd st rest s) := by
  intro rest
  induction rest with
  | nil =>
    intro st s h
    cases hr : runStage st s with
    | ok s1 => rw [runStages_last, hr]; exact last _ _ _ h hr
    | abort c i s1 => rw [runStages_abort hr]; exact abort _ _ _ _ _ _ h hr
  | cons st' rest ih =>
    intro st s h
    cases hr : runStage st s with
    | ok s1 =>
      rw [runStages_next hr]
      split
      · exact ih _ _ (next _ _ _ _ _ h hr)
      · exact wait _ _ _ _ _ h hr
    | abort c i s1 => rw [runStages_abort hr]; exact abort _ _ _ _ _ _ h hr

theorem SameOutside.refl (s : State) : SameOutside s s := by simp [SameOutside]

theorem SameOutside.trans {s t u : State} (a : SameOutside s t) (b : SameOutside t u) : SameOutside s u := by
  unfold SameOutside at *
  simp_all

theorem enter_outside (cmd : Instr) (st : Stage) (rest : List Stage) (s : State) :
    SameOutside s (s.enter cmd st rest) := by
  simp only [State.enter, stageStart_eq]
  simp [SameOutside]

/-- R102: no run of stages changes what lies outside the command's destination. -/
theorem runStages_outside (cmd : Instr) (st : Stage) (rest : List Stage) (s : State) :
    SameOutside s (runStages cmd st rest s) := by
  have go : ∀ st u e, SameOutside s u → runStage st u = e → SameOutside s e.state := fun st u e h hr => by
    rw [← hr]
    exact h.trans (runStage_outside st u)
  refine runStages_induct (P := fun _ _ u => SameOutside s u) (Q := SameOutside s) ?_ ?_ ?_ ?_ rest st s (.refl s)
  · intro st rest u c i u1 h hr; exact go _ _ _ h hr
  · intro st u u1 h hr; exact go _ _ _ h hr
  · intro st st' rest u u1 h hr; exact (go _ _ _ h hr).trans (enter_outside _ _ _ u1)
  · intro st st' rest u u1 h hr; exact (go _ _ _ h hr).trans (enter_outside _ _ _ u1)

/-- After a run of stages the block is idle, or runs one of the later stages of the same command. -/
theorem runStages_seq (cmd : Instr) (st : Stage) (rest : List Stage) (s : State) :
    (runStages cmd st rest s).seq = .idle ∨
    ∃ st' rest' left, (runStages cmd st rest s).seq = .run cmd st' rest' left ∧ (st' :: rest') <:+ rest := by
  refine runStages_induct (P := fun _ r _ => r <:+ rest)
    (Q := fun t => t.seq = .idle ∨ ∃ st' rest' left, t.seq = .run cmd st' rest' left ∧ (st' :: rest') <:+ rest)
    ?_ ?_ ?_ ?_ rest st s (List.suffix_refl _)
  · intro st r u c i u1 h hr; exact .inl rfl
  · intro st u u1 h hr; exact .inl rfl
  · intro st st' r u u1 h hr; exact .inr ⟨_, _, _, rfl, h⟩
  · intro st st' r u u1 h hr; exact (List.suffix_cons _ _).trans h

/-- What an instruction can answer, as one list of outcomes: it is dropped, it is rejected, it is CRC.FEED or
SOFT.RESET, or it is accepted. -/
theorem exec_cases (i : Instr) (s : State) :
    (i = .softReset ∧ exec i s = .next s.resetBlock) ∨
    (∃ v, i = .crcFeed v ∧ exec i s = .next (if s.busy then s.dropWrite else crcFeedIdle v s)) ∨
    (i ≠ .softReset ∧ (∀ v, i ≠ .crcFeed v) ∧ ∃ check st rest, stagesOf i = st :: rest ∧
      exec i s = .next (issue i check s) ∧
      (st.toPack = true → ∀ u : State, check u = none → u.gridValid = true) ∧
      (st.toOut = true → ∀ u : State, check u = none → u.packValid = true) ∧
      (st = .loadGrid → check = loadGridCheck) ∧ (st = .loadPack → check = loadPackCheck) ∧
      ∀ u code info, check u = some (code, info) → code ≠ .none) := by
  have pk : ∀ (o : Orient) (u : State), packCheck o u = none → u.gridValid = true := by
    intro o u h
    unfold packCheck at h
    split at h
    · simp at h
    · simp_all
  have en : ∀ u : State, encCheck u = none → u.packValid = true := by
    intro u h
    unfold encCheck at h
    split at h
    · simp at h
    · simp_all
  have codes : ∀ (check : State → Option (ErrCode × Word)) (u : State) (code : ErrCode) (info : Word),
      (check = noCheck ∨ check = threshCheck ∨ check = loadGridCheck ∨ (∃ o, check = packCheck o) ∨
        check = loadPackCheck ∨ check = encCheck) → check u = some (code, info) → code ≠ .none := by
    rintro check u code info (rfl | rfl | rfl | ⟨o, rfl⟩ | rfl | rfl) h <;>
      simp only [noCheck, threshCheck, loadGridCheck, packCheck, loadPackCheck, encCheck] at h <;>
      (repeat' split at h) <;> simp_all <;> simp [← h.1]
  cases i
  case softReset => exact .inl ⟨rfl, rfl⟩
  case crcFeed v => exact .inr (.inl ⟨v, rfl, rfl⟩)
  all_goals
    refine .inr (.inr ⟨by simp, by simp, _, _, _, rfl, rfl, ?_, ?_, ?_, ?_, fun u code info h =>
      codes _ u code info (by simp) h⟩)
    all_goals first | exact fun _ => pk _ | exact fun _ => en | exact fun _ => rfl | simp [Stage.toOut, Stage.toPack]

end Sys2Proof.Machine
end

