-- ==== Sys2Proof/Laws/Bus.lean ====
section
/-! SUPPORT. The laws of the host bus: the address map, the byte order, a host read after a host write, and the
outcomes of `readPlace` and `writePlace`. -/

namespace Sys2Proof.Machine

/-! ## The address map (R23, R60) -/

@[simp] theorem csrAt_offset (c : Csr) : csrAt c.offset = some c := by cases c <;> decide

theorem csrAt_some {a : Word} {c : Csr} (h : csrAt a = some c) : a = c.offset := by
  have := List.find?_some h
  exact (by simpa using this : c.offset = a).symm

theorem csr_offset_small (c : Csr) : c.offset.toNat < 0x58 ∧ c.offset.toNat % 4 = 0 := by cases c <;> decide

/-- R23: every aligned offset below 0x058 is a CSR. -/
theorem csrAt_of_lt {a : Word} (h : a.toNat < 0x58) (h4 : a.toNat % 4 = 0) : ∃ c, csrAt a = some c := by
  have : ∀ k : Fin 22, (csrAt (BitVec.ofNat 32 (4 * k.val))).isSome = true := by decide
  obtain ⟨c, hc⟩ := Option.isSome_iff_exists.mp (this ⟨a.toNat / 4, by omega⟩)
  refine ⟨c, ?_⟩
  have e : BitVec.ofNat 32 (4 * (a.toNat / 4)) = a := by
    apply BitVec.eq_of_toNat_eq
    rw [BitVec.toNat_ofNat]
    have := a.isLt
    omega
  rw [← e]
  exact hc

theorem within_some {b z n a i : Nat} (h : within b z n a = some i) : b ≤ a ∧ a + n ≤ b + z ∧ i = a - b := by
  unfold within at h
  split at h
  · next hc => cases h; exact ⟨hc.1, hc.2, rfl⟩
  · cases h

theorem within_none {b z n a : Nat} : within b z n a = none ↔ ¬ (b ≤ a ∧ a + n ≤ b + z) := by
  unfold within
  split <;> simp_all

theorem bufferPlace_not_csr {s : State} {n a : Nat} {c : Csr} : bufferPlace s n a ≠ .ok (.csr c) := by
  unfold bufferPlace
  repeat' split
  all_goals simp

/-- R63: an access that reaches a CSR is a word access at its offset. -/
theorem place_csr {s : State} {n : Width} {a : Word} {c : Csr} (h : place s n a = .ok (.csr c)) :
    a = c.offset ∧ n = .word := by
  unfold place at h
  split at h
  · cases h
  · split at h
    · split at h
      · cases h
      · next hn =>
        split at h
        · next hc => cases h; exact ⟨csrAt_some hc, by simpa using hn⟩
        · cases h
    · exact absurd h bufferPlace_not_csr

/-- A word access at a CSR's offset reaches it. -/
theorem place_offset (s : State) (c : Csr) : place s .word c.offset = .ok (.csr c) := by
  have h := csr_offset_small c
  unfold place
  rw [if_neg (by simp [Width.bytes, h.2]), if_pos (by unfold csrPageSize; omega)]
  simp

/-- R60: the elements an access reaches lie inside its buffer. -/
theorem place_bounds {s : State} {n : Width} {a : Word} {p : Place} (h : place s n a = .ok p) :
    (∀ i, p = .pix i → i + n.bytes ≤ s.capPix.toNat) ∧
    (∀ i, p = .grid i → 8 * (i + n.bytes) ≤ s.capGrid.toNat) ∧
    (∀ i, p = .pack i → i + n.bytes ≤ s.capPack.toNat) ∧ ∀ i, p = .out i → i + n.bytes ≤ s.capOut.toNat := by
  unfold place at h
  split at h
  · cases h
  · split at h
    · split at h
      · cases h
      · split at h <;> cases h
        simp
    · unfold bufferPlace at h
      split at h
      · next hw => cases h; have := within_some hw; simp; omega
      · split at h
        · next hw => cases h; have := within_some hw; simp; omega
        · split at h
          · next hw => cases h; have := within_some hw; simp; omega
          · split at h
            · next hw => cases h; have := within_some hw; simp; omega
            · cases h

/-! ## Byte order (R62) -/

/-- R62: the bytes of a word put together again are its low bytes. -/
theorem ofBytes_bytesOf {n : Nat} (hn : n ≤ 4) (v : Word) :
    ofBytes (bytesOf n v) = v &&& BitVec.ofNat 32 (2 ^ (8 * n) - 1) := by
  apply BitVec.eq_of_getLsbD_eq
  intro i hi
  have : n = 0 ∨ n = 1 ∨ n = 2 ∨ n = 3 ∨ n = 4 := by omega
  rcases this with rfl | rfl | rfl | rfl | rfl
  all_goals
    simp only [bytesOf, List.range, List.range.loop, List.map_cons, List.map_nil, ofBytes, byteOf, BitVec.getLsbD_or,
      BitVec.getLsbD_shiftLeft, BitVec.getLsbD_and, BitVec.truncate_eq_setWidth, BitVec.getLsbD_setWidth,
      BitVec.getLsbD_extractLsb']
    interval_cases i <;> simp

/-- R62: bit `m` of at most four bytes put together is bit `m mod 8` of the byte `m div 8`. -/
theorem getLsbD_ofBytes (l : List Byte) (hl : l.length ≤ 4) (m : Nat) :
    (ofBytes l).getLsbD m = (l.getD (m / 8) 0).getLsbD (m % 8) := by
  have key : ∀ l : List Byte, (ofBytes l).getLsbD m = (decide (m < 32) && (l.getD (m / 8) 0).getLsbD (m % 8)) := by
    intro l
    induction l generalizing m with
    | nil => simp [ofBytes]
    | cons b r ih =>
      rw [ofBytes, BitVec.getLsbD_or, BitVec.getLsbD_shiftLeft, ih]
      by_cases h : m < 8
      · simp [h, show m / 8 = 0 by omega, Nat.mod_eq_of_lt h, show m < 32 by omega]
      · obtain ⟨q, rfl⟩ : ∃ q, m = q + 8 := ⟨m - 8, by omega⟩
        by_cases h32 : q + 8 < 32 <;> simp [h32, Nat.add_div_right]
        omega
  rw [key]
  by_cases h : m < 32
  · simp [h]
  · have : l.getD (m / 8) 0 = 0 := by rw [List.getD_eq_getElem?_getD, List.getElem?_eq_none (by omega)]; rfl
    rw [this]; simp

/-- R41: bit `j` of byte `k` of GRID is its cell `8 k + (7 - j)`. -/
theorem BitBuf.getLsbD_readByte (g : BitBuf) (k : Nat) {j : Nat} (hj : j < 8) :
    (g.readByte k).getLsbD j = g.read (8 * k + (7 - j)) := by
  have := byteOfBits_getLsbD (fun j => g.read (8 * k + j)) (j := 7 - j) (by omega)
  rwa [show 7 - (7 - j) = j by omega] at this

@[simp] theorem ofBytes_bytesOf_word (v : Word) : ofBytes (bytesOf 4 v) = v := by
  rw [ofBytes_bytesOf (Nat.le_refl 4), show BitVec.ofNat 32 (2 ^ (8 * 4) - 1) = BitVec.allOnes 32 by decide,
    BitVec.and_allOnes]

/-- A byte is made of its bits. -/
theorem byteOfBits_eq (b : Byte) (f : Nat → Bool) (h : ∀ j, j < 8 → f j = b.getLsbD (7 - j)) : byteOfBits f = b := by
  apply BitVec.eq_of_getLsbD_eq
  intro i hi
  have := byteOfBits_getLsbD f (j := 7 - i) (by omega)
  rw [show 7 - (7 - i) = i by omega] at this
  rw [this, h _ (by omega), show 7 - (7 - i) = i by omega]

/-- R41, R62: bit `7 - j` of the `k`-th byte of a word written to GRID is its `8 * k + j`-th cell. -/
theorem flatMap_bits_getElem? (n : Nat) (v : Word) {k j : Nat} (hk : k < n) (hj : j < 8) :
    ((bytesOf n v).flatMap bitsOfByte)[k * 8 + j]? = some ((byteOf v k).getLsbD (7 - j)) := by
  rw [bytesOf, List.flatMap_map]
  exact rows_getElem? (fun j k => (byteOf v k).getLsbD (7 - j)) 8 n hj hk

/-- R41, R62: a byte of GRID after a host write that covers it. -/
theorem BitBuf.readByte_writeBytes (g : BitBuf) {n i k : Nat} (v : Word) (hk : k < n) :
    (g.writeBytes i (bytesOf n v)).readByte (i + k) = byteOf v k := by
  unfold BitBuf.readByte BitBuf.writeBytes
  apply byteOfBits_eq
  intro j hj
  rw [BitBuf.read_writeAll, if_pos (by omega), show 8 * (i + k) + j - 8 * i = k * 8 + j by omega,
    flatMap_bits_getElem? n v hk hj]
  rfl

/-- R41, R62: the cells of `n` bytes are `8 * n` cells. -/
@[simp] theorem length_flatMap_bits (l : List Byte) : (l.flatMap bitsOfByte).length = 8 * l.length := by
  induction l with
  | nil => rfl
  | cons v r ih => simp [ih]; omega

/-- R41, R62: a host write to GRID leaves the cells of every other byte alone. -/
theorem BitBuf.read_writeBytes_other {i k : Nat} {l : List Byte} (h : k < 8 * i ∨ 8 * (i + l.length) ≤ k)
    (g : BitBuf) : (g.writeBytes i l).read k = g.read k :=
  BitBuf.read_writeAll_other (by rw [length_flatMap_bits]; omega) g

/-- R62: a byte of PIX or PACK after a host write that covers it. -/
theorem ByteBuf.read_writeBytes (b : ByteBuf) {n i k : Nat} (v : Word) (hk : k < n) :
    (b.writeAll i (bytesOf n v)).read (i + k) = byteOf v k := by
  rw [ByteBuf.read_writeAll, if_pos (by omega), show i + k - i = k by omega]
  simp [bytesOf, hk]

/-! ## Reads and writes of a place -/

/-- R107: no place is open while the block is idle. -/
theorem placeOpen_idle {s : State} (h : s.seq = .idle) (p : Place) : s.placeOpen p = false := by
  cases p with
  | csr c => cases c <;> simp [State.placeOpen, State.csrOpen, State.gridOpen, State.packOpen, State.outOpen, State.busy, h]
  | pix i => rfl
  | grid i => simp [State.placeOpen, State.gridOpen, h]
  | pack i => simp [State.placeOpen, State.packOpen, h]
  | out i => simp [State.placeOpen, State.outOpen, h]

/-- R66: a host read changes only what the host has read, and, for an open place, the draw counter. -/
theorem readPlace_cases (n : Nat) (p : Place) (s : State) :
    (s.placeOpen p = false ∧ readPlace n p s = { s with rdata := ofBytes (s.placeBytes n p) }) ∨
    (s.placeOpen p = true ∧
      readPlace n p s = { s with rdata := ofBytes (bytesOf n (Config.anyWord s.draws)), draws := s.draws + 1 }) := by
  unfold readPlace
  cases h : s.placeOpen p
  · exact .inl ⟨rfl, by simp⟩
  · exact .inr ⟨rfl, by simp⟩

/-- R106: a plain write is dropped while BUSY = 1 unless it goes to STATUS or IRQ_EN; else it is performed. -/
theorem writePlace_cases (n : Nat) (p : Place) (v : Word) (s : State) :
    (s.busy = true ∧ p.exempt = false ∧ writePlace n p v s = { s with conflict := true }) ∨
    ((s.busy = false ∨ p.exempt = true) ∧ writePlace n p v s = performWrite n p v s) := by
  unfold writePlace
  cases hb : s.busy <;> cases he : p.exempt <;> simp [State.dropWrite]

/-- A plain write leaves the sequencer and what stands outside the block alone. -/
theorem performWrite_frame (n : Nat) (p : Place) (v : Word) (s : State) :
    (performWrite n p v s).seq = s.seq ∧ (performWrite n p v s).inputs = s.inputs ∧
    (performWrite n p v s).rdata = s.rdata ∧ (performWrite n p v s).stalls = s.stalls ∧
    (performWrite n p v s).draws = s.draws ∧ (performWrite n p v s).err = s.err ∧
    (performWrite n p v s).errInfo = s.errInfo ∧ (performWrite n p v s).crcAcc = s.crcAcc ∧
    (performWrite n p v s).crcErr = s.crcErr ∧ (performWrite n p v s).mem.out = s.mem.out := by
  cases p with
  | csr c => cases c <;> simp [performWrite, State.writeCsr, State.writeStatus, State.writeIrqEn, State.writeCfg]
  | pix i => simp [performWrite]
  | grid i => simp [performWrite]
  | pack i => simp [performWrite]
  | out i => simp [performWrite]

/-- A plain write keeps the canonical form of memory. -/
theorem wf_performWrite (n : Nat) (p : Place) (v : Word) {s : State} (h : s.mem.wf = true) :
    (performWrite n p v s).mem.wf = true := by
  have hw := (Memory.wf_iff _).mp h
  cases p with
  | csr c => cases c <;> exact h
  | pix i => exact wf_setPix h (ByteBuf.writeAll_rising _ _ _ hw.1)
  | grid i => exact wf_setGrid h (BitBuf.writeAll_rising _ _ _ hw.2.1)
  | pack i => exact wf_setPack h (ByteBuf.writeAll_rising _ _ _ hw.2.2.1)
  | out i => exact h

end Sys2Proof.Machine
end

