-- ==== Sys2Proof/Laws/PerInstr.lean ====
section
/-! SUPPORT. Lemmas about every instruction as syntax, one per constructor.

WordRoundTrip (R80 to R92): the instruction is well formed; its word, written to its port, decodes to it again; and
the host operation that issues it is well formed and reaches that port as a CSR word write. -/

namespace Sys2Proof.Laws.WordRoundTrip

/-- R92: what the family says of one instruction. -/
def Statement (i : Instr) : Prop :=
  i.wf = true ∧ decodeWrite (encode i).1 (encode i).2 = .ok i ∧ (issueOp i).wf = true ∧
  csrAt (encode i).1 = some (portOf i)

theorem crcInit : Statement .crcInit := by refine ⟨?_, ?_, ?_, ?_⟩ <;> decide

theorem thresh : Statement .thresh := by refine ⟨?_, ?_, ?_, ?_⟩ <;> decide

theorem loadGrid : Statement .loadGrid := by refine ⟨?_, ?_, ?_, ?_⟩ <;> decide

theorem packN : Statement .packN := by refine ⟨?_, ?_, ?_, ?_⟩ <;> decide

theorem packI : Statement .packI := by refine ⟨?_, ?_, ?_, ?_⟩ <;> decide

theorem packL : Statement .packL := by refine ⟨?_, ?_, ?_, ?_⟩ <;> decide

theorem packB : Statement .packB := by refine ⟨?_, ?_, ?_, ?_⟩ <;> decide

theorem packR : Statement .packR := by refine ⟨?_, ?_, ?_, ?_⟩ <;> decide

theorem loadPack : Statement .loadPack := by refine ⟨?_, ?_, ?_, ?_⟩ <;> decide

theorem encZ64 : Statement .encZ64 := by refine ⟨?_, ?_, ?_, ?_⟩ <;> decide

theorem encAcs : Statement .encAcs := by refine ⟨?_, ?_, ?_, ?_⟩ <;> decide

theorem convertZ64N : Statement .convertZ64N := by refine ⟨?_, ?_, ?_, ?_⟩ <;> decide

theorem convertZ64I : Statement .convertZ64I := by refine ⟨?_, ?_, ?_, ?_⟩ <;> decide

theorem convertZ64L : Statement .convertZ64L := by refine ⟨?_, ?_, ?_, ?_⟩ <;> decide

theorem convertZ64B : Statement .convertZ64B := by refine ⟨?_, ?_, ?_, ?_⟩ <;> decide

theorem convertZ64R : Statement .convertZ64R := by refine ⟨?_, ?_, ?_, ?_⟩ <;> decide

theorem convertAcsN : Statement .convertAcsN := by refine ⟨?_, ?_, ?_, ?_⟩ <;> decide

theorem convertAcsI : Statement .convertAcsI := by refine ⟨?_, ?_, ?_, ?_⟩ <;> decide

theorem convertAcsL : Statement .convertAcsL := by refine ⟨?_, ?_, ?_, ?_⟩ <;> decide

theorem convertAcsB : Statement .convertAcsB := by refine ⟨?_, ?_, ?_, ?_⟩ <;> decide

theorem convertAcsR : Statement .convertAcsR := by refine ⟨?_, ?_, ?_, ?_⟩ <;> decide

theorem softReset : Statement .softReset := by refine ⟨?_, ?_, ?_, ?_⟩ <;> decide

theorem crcFeed (v : Word) : Statement (.crcFeed v) :=
  ⟨rfl, rfl, decide_eq_true v.isLt, rfl⟩

end Sys2Proof.Laws.WordRoundTrip
end

