-- ==== Sys2Proof/Laws/Reset.lean ====
section
/-! SUPPORT. What the two resets and a power cycle do to the fields that they do not set. -/

namespace Sys2Proof.Machine

/-- R281: ending a command touches its destination buffers and the draw counter only. -/
theorem endCommand_eq (s : State) :
    s.endCommand = { s with mem := s.endCommand.mem, draws := s.endCommand.draws } := by
  unfold State.endCommand
  cases s.gridOpen <;> cases s.packOpen <;> cases s.outOpen <;> rfl

theorem endCommand_pix (s : State) : s.endCommand.mem.pix = s.mem.pix := by
  unfold State.endCommand
  cases s.gridOpen <;> cases s.packOpen <;> cases s.outOpen <;> rfl

theorem endCommand_idle {s : State} (h : s.seq = .idle) : s.endCommand = s := by
  simp [State.endCommand, State.gridOpen, State.packOpen, State.outOpen, h]

/-- Ending a command keeps the canonical form of memory. -/
theorem wf_endCommand {s : State} (h : s.mem.wf = true) : s.endCommand.mem.wf = true := by
  unfold State.endCommand
  cases s.gridOpen <;> cases s.packOpen <;> cases s.outOpen <;> simp_all [Memory.wf, numberFrom]

theorem wf_resetBlock {s : State} (h : s.mem.wf = true) : s.resetBlock.mem.wf = true := wf_endCommand h

theorem wf_powerCycle (s : State) : s.powerCycle.mem.wf = true := by
  show ((((s.redrawPix.fillGrid []).fillPack []).fillOut []).mem).wf = true
  simp [Memory.wf, numberFrom]

end Sys2Proof.Machine
end

