-- ==== Sys2Proof/Laws/Step.lean ====
section
/-! SUPPORT. Everything one step can do, said once. -/

namespace Sys2Proof.Machine

/-- What one host access does to the block, before the time it takes is counted. -/
inductive Access (u : State) : State → Prop where
  | read (n : Width) (a : Word) (p : Place) (h : place u n a = .ok p) : Access u (readPlace n.bytes p u)
  | instr (i : Instr) (m : State) (h : exec i u = .next m) : Access u m
  | badWord (wd : Word) : Access u (badCommand wd u)
  | write (n : Width) (a : Word) (p : Place) (v : Word) (h : place u n a = .ok p) : Access u (writePlace n.bytes p v u)

theorem stepLoad_next {n : Width} {a : Word} {u m : State} (h : stepLoad n a u = .next m) : Access u m := by
  unfold stepLoad at h
  split at h
  · cases h
  · next p hp => cases h; exact .read n a p hp

theorem storeKind_plain {u : State} {n : Width} {a v : Word} {p : Place} (h : storeKind u n a v = .ok (.plain p)) :
    place u n a = .ok p := by
  unfold storeKind at h
  split at h
  · cases h
  · cases h
  · split at h <;> cases h
  · split at h <;> cases h
  · next hp => cases h; exact hp

theorem stepStore_next {n : Width} {a v : Word} {u m : State} (h : stepStore n a v u = .next m) : Access u m := by
  unfold stepStore at h
  split at h
  · cases h
  · exact .instr _ _ h
  · cases h; exact .badWord _
  · next p hp => cases h; exact .write n a p v (storeKind_plain hp)

theorem after_next {ran : Bool} {o : Host.Outcome State Fault Refusal} {t : State} (h : after ran o = .next t) :
    ∃ m, o = .next m ∧ t = if ran then afterAccess m else m := by
  cases o with
  | next m => exact ⟨m, rfl, (Host.Outcome.next.inj h).symm⟩
  | fault e => cases h
  | refused e => cases h

/-- R68, R90, R91, R280: what a step that answers a next state has done, by what stood at the head of `inputs`. -/
theorem step_cases {s t : State} (h : step s = .next t) :
    t = finishStage s ∨
    (∃ rest, s.inputs = .hwReset :: rest ∧ t = { s with inputs := rest }.resetBlock) ∨
    (∃ rest, s.inputs = .powerOn :: rest ∧ t = { s with inputs := rest }.powerCycle) ∨
    (∃ rest, s.inputs = .host .wait :: rest ∧ s.busy = false ∧ t = waitRead { s with inputs := rest }) ∨
    (∃ op rest m, s.inputs = .host op :: rest ∧ Access { s with inputs := rest } m ∧
      t = if s.busy then afterAccess m else m) := by
  rw [step] at h
  cases hi : s.inputs with
  | nil => rw [hi] at h; exact .inl (Host.Outcome.next.inj h).symm
  | cons x rest =>
    rw [hi] at h
    cases x with
    | hwReset => exact .inr (.inl ⟨rest, rfl, (Host.Outcome.next.inj h).symm⟩)
    | powerOn => exact .inr (.inr (.inl ⟨rest, rfl, (Host.Outcome.next.inj h).symm⟩))
    | host op =>
      cases op with
      | wait =>
        have h := (Host.Outcome.next.inj h).symm
        cases hb : s.busy with
        | true => rw [hb] at h; exact .inl h
        | false => rw [hb] at h; exact .inr (.inr (.inr (.inl ⟨rest, rfl, rfl, h⟩)))
      | load n a =>
        obtain ⟨m, hm, ht⟩ := after_next h
        exact .inr (.inr (.inr (.inr ⟨_, rest, m, rfl, stepLoad_next hm, ht⟩)))
      | store n a v =>
        obtain ⟨m, hm, ht⟩ := after_next h
        exact .inr (.inr (.inr (.inr ⟨_, rest, m, rfl, stepStore_next hm, ht⟩)))

/-- One rule for every claim about all steps: a property of states is kept by a step if the sequencer's progress, the
counting of an access, both resets, WAIT's read and each kind of access keep it. -/
theorem step_induct {P : State → Prop} {s t : State} (h : step s = .next t) (hs : P s)
    (inputs : ∀ u l, P u → P { u with inputs := l })
    (stages : ∀ u cmd st rest left, P u → u.seq = .run cmd st rest left → P (runStages cmd st rest u))
    (count : ∀ u cmd st rest left, P u → u.seq = .run cmd st rest left →
      P { u with seq := .run cmd st rest (left - 1) })
    (reset : ∀ u, P u → P u.resetBlock) (power : ∀ u, P u → P u.powerCycle) (wait : ∀ u, P u → P (waitRead u))
    (access : ∀ u m, P u → Access u m → P m) : P t := by
  have fin : ∀ u, P u → P (finishStage u) := by
    intro u hu
    unfold finishStage
    split
    · exact hu
    · next e => exact stages _ _ _ _ _ hu e
  have aft : ∀ u, P u → P (afterAccess u) := by
    intro u hu
    unfold afterAccess
    split
    · exact hu
    · next e =>
      split
      · exact stages _ _ _ _ _ hu e
      · exact count _ _ _ _ _ hu e
  rcases step_cases h with rfl | ⟨rest, _, rfl⟩ | ⟨rest, _, rfl⟩ | ⟨rest, _, _, rfl⟩ | ⟨_, rest, m, _, ha, rfl⟩
  · exact fin _ hs
  · exact reset _ (inputs _ _ hs)
  · exact power _ (inputs _ _ hs)
  · exact wait _ (inputs _ _ hs)
  · have := access _ _ (inputs _ rest hs) ha
    split
    · exact aft _ this
    · exact this

end Sys2Proof.Machine
end

