-- ==== Sys2Proof/Machine/Program.lean ====
section
/-! DEFINITION. Host programs: the pseudo-instructions by their expansion, and a program run with the values its
reads are expected to return (30_encoding.md R90 to R93). -/

namespace Sys2Proof.Machine

/-- R93: `CRC.STR`, of the codes of a string. -/
def crcStr (codes : List Word) : List HostOp := [issueOp .crcInit, .wait] ++ codes.map fun v => issueOp (.crcFeed v)

/-- R93: `RUN m`. -/
def runThenWait (i : Instr) : List HostOp := [issueOp i, .wait]

/-- R93: `FILLB base, n, b`. -/
def fillB (base : Word) (n : Nat) (b : Byte) : List HostOp :=
  (List.range n).map fun k => .store .byte (base + BitVec.ofNat 32 k) (b.zeroExtend 32)

/-- R93: `PIXEL x, y, W, r, g, b, a`. -/
def pixelOp (x y w : Nat) (p : Pixel) : HostOp :=
  .store .word (BitVec.ofNat 32 (0x10000000 + 4 * (y * w + x))) (ofBytes [p.r, p.g, p.b, p.a])

/-- R93: `SETCFG black, notrim`. -/
def setCfg (black notrim : Nat) : HostOp := .store .word Csr.cfg.offset (BitVec.ofNat 32 (black ||| notrim <<< 8))

/-- R90, R91: one host operation, made from `s`. WAIT is enabled when the running command, which has at most three
stages left (R108), has completed. -/
def hostStep (op : HostOp) (s : State) : Host.Outcome State Fault Refusal :=
  match op with
  | .wait => .next (waitRead (finishStage (finishStage (finishStage s))))
  | .load n a => after s.busy (stepLoad n a s)
  | .store n a v => after s.busy (stepStore n a v s)

/-- R90: a program with the values some of its operations are stated to return; it fails at a fault and at a read
that returns another value. -/
def runProgram : List (HostOp × Option Word) → State → Option State
  | [], s => some s
  | (op, want) :: r, s =>
    match hostStep op s with
    | .next t => if want.all fun v => decide (v = t.rdata) then runProgram r t else none
    | .fault _ => none
    | .refused _ => none

end Sys2Proof.Machine
end

