-- ==== Sys2Proof/Tests/Slice0.lean ====
section
/-! SUPPORT. The tests: what WellFormed and the decoder refuse, words written out from 30_encoding.md, the vectors of
95_test_vectors.md (V-…, L1-…, P…), one or two small steps per instruction, and for every statement with hypotheses
a concrete state that meets them. -/

namespace Sys2Proof.Tests

open Sys2Proof.Machine

set_option Elab.async false

/-! ## Helpers -/

/-- A reset block with capacities 4096, 1024, 1024 and 1024, whose next three stages take no time. -/
def base : State :=
  { State.reset with capPix := 4096, capGrid := 1024, capPack := 1024, capOut := 1024, stalls := [0, 0, 0] }

/-- What a next state shows. -/
def view {α : Type} (o : Host.Outcome State Fault Refusal) (f : State → α) : Option α :=
  match o with
  | .next t => some (f t)
  | .fault _ => none
  | .refused _ => none

/-- The state an outcome answers, or `base`. -/
def after1 (o : Host.Outcome State Fault Refusal) : State := (view o id).getD base

def bytes (l : List Nat) : List Byte := l.map (BitVec.ofNat 8)

/-- A text as ASCII bytes. -/
def text (l : List Char) : List Byte := l.map ord

/-- An image in PIX. -/
def image (w : Word) (px : List Nat) (s : State) : State :=
  { s with
    width := w, pixLen := BitVec.ofNat 32 px.length
    mem := { s.mem with pix := ⟨numberFrom 0 (bytes px), 0⟩ } }

def black : List Nat := [0, 0, 0, 255]
def white : List Nat := [255, 255, 255, 255]

/-- L1-1: the 2 by 2 black, opaque image. -/
def blackSquare : State := image 2 (black ++ black ++ black ++ black) base

/-- P7: a 4 by 3 white image with black pixels at (1, 1) and (2, 1). -/
def twoDots : State :=
  image 4 (white ++ white ++ white ++ white ++ (white ++ black ++ black ++ white) ++
    (white ++ white ++ white ++ white)) base

/-- P8: a 2 by 2 white image. -/
def whiteSquare : State := image 2 (white ++ white ++ white ++ white) base

/-- P4: the grid [[1,0,0],[1,1,0]], written by the host as the byte 0x98. -/
def smallGrid : State :=
  { base with gridW := 3, gridH := 2, gridValid := true, mem := { base.mem with grid := base.mem.grid.writeBytes 0 [0x98] } }

/-- A bitmap of one row in PACK. -/
def bitmap (l : List Nat) : State :=
  { base with
    pkW := BitVec.ofNat 32 (8 * l.length), pkH := 1, pkRowlen := BitVec.ofNat 32 l.length
    pkLen := BitVec.ofNat 32 l.length, packValid := true
    mem := { base.mem with pack := ⟨numberFrom 0 (bytes l), 2⟩ } }

/-- `s` while it runs the first stage of `i`. -/
def during (i : Instr) (st : Stage) (rest : List Stage) (s : State) : State := { s with seq := .run i st rest 1 }

/-! ## WellFormed -/

theorem test_wf_store_too_wide : HostOp.wf (.store .byte 0x10000000 0x1FF) = false := by decide +kernel
theorem test_wf_store_half_too_wide : HostOp.wf (.store .half 0x10000000 0x10000) = false := by decide +kernel
theorem test_wf_store_fits : HostOp.wf (.store .byte 0x10000000 0xFF) = true := by decide +kernel
theorem test_wf_caps : capsLegal 4096 1024 1024 1024 = true := by decide +kernel
theorem test_wf_caps_least : capsLegal 4 32 4 12 = true := by decide +kernel
theorem test_wf_caps_pix : capsLegal 6 1024 1024 1024 = false := by decide +kernel
theorem test_wf_caps_pix_zero : capsLegal 0 1024 1024 1024 = false := by decide +kernel
theorem test_wf_caps_grid : capsLegal 4096 48 1024 1024 = false := by decide +kernel
theorem test_wf_caps_pack : capsLegal 4096 1024 536870912 1024 = false := by decide +kernel
theorem test_wf_caps_out : capsLegal 4096 1024 1024 8 = false := by decide +kernel

/-! ## Decoding: words written out from R80 to R83, least significant byte first -/

/-- OP 0x01 in bits 7..0. -/
theorem test_decode_crc_init : decodeBytes 0x000 [0b00000001, 0, 0, 0] = .ok .crcInit := by decide +kernel
/-- OP 0x10. -/
theorem test_decode_thresh : decodeBytes 0x000 [0b00010000, 0, 0, 0] = .ok .thresh := by decide +kernel
/-- OP 0x11. -/
theorem test_decode_load_grid : decodeBytes 0x000 [0b00010001, 0, 0, 0] = .ok .loadGrid := by decide +kernel
/-- OP 0x20, ROT 4 in bits 10..8. -/
theorem test_decode_pack_r : decodeBytes 0x000 [0b00100000, 0b00000100, 0, 0] = .ok .packR := by decide +kernel
/-- OP 0x20, ROT 3. -/
theorem test_decode_pack_b : decodeBytes 0x000 [0b00100000, 0b00000011, 0, 0] = .ok .packB := by decide +kernel
/-- OP 0x21. -/
theorem test_decode_load_pack : decodeBytes 0x000 [0b00100001, 0, 0, 0] = .ok .loadPack := by decide +kernel
/-- V-E12: OP 0x30, FMT 1 in bit 12. -/
theorem test_decode_enc_acs : decodeBytes 0x000 [0b00110000, 0b00010000, 0, 0] = .ok .encAcs := by decide +kernel
/-- OP 0x30, FMT 0. -/
theorem test_decode_enc_z64 : decodeBytes 0x000 [0b00110000, 0, 0, 0] = .ok .encZ64 := by decide +kernel
/-- V-E10: OP 0x40, ROT 3, FMT 0. -/
theorem test_decode_convert_z64_b : decodeBytes 0x000 [0b01000000, 0b00000011, 0, 0] = .ok .convertZ64B := by decide +kernel
/-- V-E11: OP 0x40, ROT 4, FMT 1. -/
theorem test_decode_convert_acs_r : decodeBytes 0x000 [0b01000000, 0b00010100, 0, 0] = .ok .convertAcsR := by decide +kernel
/-- V-E13: the exact word 0x0000_00FF. -/
theorem test_decode_soft_reset : decodeBytes 0x000 [0b11111111, 0, 0, 0] = .ok .softReset := by decide +kernel
/-- R88: a write to CRC_DATA, offset 0x03C. -/
theorem test_decode_crc_feed : decodeBytes 0x03C [0x41, 0, 0, 0x80] = .ok (.crcFeed 0x80000041) := by decide +kernel

/-- V-E1 to V-E9. -/
theorem test_decode_refuses :
    decodeCmd 0x00000000 = .error .reservedOp ∧ decodeCmd 0x00000002 = .error .reservedOp ∧
    decodeCmd 0x00000101 = .error .unusedField ∧ decodeCmd 0x00001020 = .error .unusedField ∧
    decodeCmd 0x00000520 = .error .reservedRot ∧ decodeCmd 0x00000830 = .error .reservedBit ∧
    decodeCmd 0x00002030 = .error .reservedBit ∧ decodeCmd 0x000001FF = .error .unusedField ∧
    decodeCmd 0x80000010 = .error .reservedBit := by decide +kernel

theorem test_decode_refuses_form :
    decodeBytes 0x000 [1, 0, 0] = .error .notOneWord ∧ decodeBytes 0x004 [1, 0, 0, 0] = .error .noCommandPort := by decide +kernel

theorem test_table_word_command : decodeTableWord 32 0x00001440 = some .convertAcsR := by decide +kernel
theorem test_table_word_feed : decodeTableWord 32 0x00000041 = some (.crcFeed 0x41) := by decide +kernel
/-- With the port's offset above the data, every word of CRC.FEED decodes to it. -/
theorem test_table_word_port : decodeTableWord 64 0x0000003C00000001 = some (.crcFeed 1) := by decide +kernel

/-- From reset, the fetched word runs in the very next step, for a row of each family. -/
theorem test_fetched_word_runs_from_reset :
    ([0x01, 0x10, 0x11, 0x20, 0x21, 0x30, 0x1030, 0x40, 0x1440, 0xFF, 0x41].all fun w =>
      (view (step (State.reset.withFetchWord 32 w)) fun t => t.inputs.isEmpty).getD false) = true := by decide +kernel

/-! ## Checksum unit -/

/-- R131: the checkpoints of the table. -/
theorem test_crc_table :
    crcTable 0 = 0 ∧ crcTable 1 = 0x77073096 ∧ crcTable 128 = 0xEDB88320 ∧ crcTable 255 = 0x2D02EF8D ∧
    crcTable 0x41 = 0x01DB7106 ∧ crcTable 0x9C = 0xF9B9DF6F := by decide +kernel

/-- V-C1, V-C7, V-C8, V-C9. -/
theorem test_crc16_vectors :
    crc16 [] = 0 ∧ crc16 [255] = 0xEF8D ∧ crc16 (text ['A', 'B']) = 0x6716 ∧ crc16 (text ['a', 'b', 'c']) = 0x989B := by decide +kernel

/-- V-C10. -/
theorem test_crc16_check_value : crc16 (text ['1', '2', '3', '4', '5', '6', '7', '8', '9']) = 0x44B9 := by decide +kernel

/-- R132, R133 at the boundary of the codes: 255 is a code, 256 is OutOfRange, and so is a string that holds it. -/
theorem test_crc_out_of_range :
    crc32Ref [255] = some 0xEF8D ∧ crc16Of [255] = some 0xEF8D ∧ crc32Ref [256] = none ∧
    crc32Ref [0x41, 0x42, 0x100, 0x43] = none ∧ crc16Of [0x41, 0x42, 0x100, 0x43] = none := by decide +kernel

theorem test_crcInit_clears :
    view (exec .crcInit { base with crcAcc := 0x1234, crcErr := true, err := .charOutOfRange, errInfo := 256 })
      (fun t => (t.crcAcc, t.crcErr, t.err, t.errInfo, t.done)) = some (0, false, .none, 0, true) := by decide +kernel

/-- R134: from 0, code 0x41 gives 0x7106; V-C8. -/
theorem test_crcFeed_updates :
    view (exec (.crcFeed 0x42) { base with crcAcc := 0x7106 }) (fun t => (t.crcAcc, t.done)) = some (0x6716, false) := by decide +kernel

/-- V-C21, P6. -/
theorem test_crcFeed_out_of_range :
    view (exec (.crcFeed 0x100) { base with crcAcc := 0x7106 }) (fun t => (t.crcAcc, t.crcErr, t.err, t.errInfo)) =
      some (0x7106, true, .charOutOfRange, 0x100) := by decide +kernel

/-- P6: STATUS reads 0x26. P1: CRC_HEX of 0x6716 reads 0x3631_3736. -/
theorem test_crc_registers :
    { base with done := true, crcErr := true, err := .charOutOfRange }.readCsr .status = 0x26 ∧
    { base with crcAcc := 0x6716 }.readCsr .crcHex = 0x36313736 ∧
    { base with crcAcc := 0x6716 }.readCsr .crcVal = 0x6716 := by decide +kernel

/-! ## Thresholder -/

/-- V-T1 to V-T6 and the ties of R158 and R154. -/
theorem test_ink_vectors :
    ink ⟨0, 0, 0, 255⟩ 50 = true ∧ ink ⟨255, 255, 255, 255⟩ 99 = false ∧ ink ⟨200, 10, 10, 0⟩ 99 = false ∧
    ink ⟨0, 0, 0, 128⟩ 50 = false ∧ ink ⟨0, 0, 0, 213⟩ 50 = true ∧ ink ⟨0, 0, 0, 212⟩ 50 = false ∧
    ink ⟨51, 51, 51, 255⟩ 20 = true ∧ ink ⟨1, 0, 90, 255⟩ 4 = true := by decide +kernel

/-- V-T19, V-T20 (C1): blue weighs 0.11. -/
theorem test_ink_blue : ink ⟨0, 0, 255, 255⟩ 11 = true ∧ ink ⟨0, 0, 255, 255⟩ 10 = false := by decide +kernel

/-- P7: the trim finds the two dots. -/
theorem test_thresh_trims :
    view (exec .thresh twoDots) (fun t => (t.gridW, t.gridH, t.cell 0 0, t.cell 1 0, t.gridValid, t.empty)) =
      some (2, 1, true, true, true, false) := by decide +kernel

/-- P8: no ink. -/
theorem test_thresh_empty :
    view (exec .thresh whiteSquare) (fun t => (t.gridW, t.gridH, t.empty, t.err, t.readCsr .status)) =
      some (0, 0, true, .none, 0x10A) := by decide +kernel

/-- V-T19, V-T20 through PIX: the third byte of a pixel is blue, the first is red (R40), which weighs 0.30. -/
theorem test_thresh_colours :
    let run (px : List Nat) (percent : BitVec 7) :=
      view (exec .thresh { image 1 px base with black := percent }) fun t => (t.gridW, t.empty)
    run [0, 0, 255, 255] 11 = some (1, false) ∧ run [0, 0, 255, 255] 10 = some (0, true) ∧
    run [255, 0, 0, 255] 30 = some (1, false) ∧ run [255, 0, 0, 255] 29 = some (0, true) := by decide +kernel

/-- P4. -/
theorem test_loadGrid_accepts :
    view (exec .loadGrid { smallGrid with gridValid := false }) (fun t => (t.gridValid, t.cell 1 1, t.cell 1 0)) =
      some (true, true, false) := by decide +kernel

/-- R160: the product is exact, 2^16 * 2^16 is not 0. -/
theorem test_loadGrid_exact_product :
    view (exec .loadGrid { base with gridW := 65536, gridH := 65536 }) (fun t => (t.gridValid, t.err, t.errInfo)) =
      some (false, .capacity, 2) := by decide +kernel

/-! ## Packer: the example grid of R182 to R186 -/

/-- What PACK leaves: PK_W, PK_H, PK_LEN and the first three bytes. -/
def packed3 (i : Instr) : Option (Word × Word × Word × List Byte) :=
  view (exec i smallGrid) fun t => (t.pkW, t.pkH, t.pkLen, (List.range t.pkLen.toNat).map t.mem.pack.read)

theorem test_packN : packed3 .packN = some (3, 2, 2, bytes [0x80, 0xC0]) := by decide +kernel
theorem test_packI : packed3 .packI = some (3, 2, 2, bytes [0x60, 0x20]) := by decide +kernel
theorem test_packL : packed3 .packL = some (2, 3, 3, bytes [0x00, 0x40, 0xC0]) := by decide +kernel
theorem test_packB : packed3 .packB = some (2, 3, 3, bytes [0x00, 0x40, 0xC0]) := by decide +kernel
theorem test_packR : packed3 .packR = some (2, 3, 3, bytes [0xC0, 0x80, 0x00]) := by decide +kernel

/-- R182: w = 9, h = 1 with all cells 1 gives FF 80. -/
theorem test_packN_padding :
    view (exec .packN ({ smallGrid with gridW := 9, gridH := 1 }.setGrid
        (base.mem.grid.writeAll 0 (List.replicate 9 true))))
      (fun t => (t.pkRowlen, t.mem.pack.read 0, t.mem.pack.read 1)) = some (2, 0xFF, 0x80) := by decide +kernel

/-- R190's example. -/
theorem test_loadPack_accepts :
    view (exec .loadPack { base with pkW := 88, pkH := 1, pkRowlen := 11, pkLen := 11 })
      (fun t => (t.packValid, t.err)) = some (true, .none) := by decide +kernel

theorem test_loadPack_inconsistent :
    view (exec .loadPack { base with pkW := 88, pkH := 1, pkRowlen := 10, pkLen := 10 })
      (fun t => (t.packValid, t.err, t.errInfo)) = some (false, .badConfig, 2) := by decide +kernel

/-! ## Encoders -/

/-- V-Z1: the zlib container of C0 C0, and its payload. -/
theorem test_z64_payload :
    z64Payload (base64 (bytes [0x78, 0x9C, 0x3B, 0x70, 0x00, 0x00, 0x02, 0x42, 0x01, 0x81])) =
      text [':', 'Z', '6', '4', ':', 'e', 'J', 'w', '7', 'c', 'A', 'A', 'A', 'A', 'k', 'I', 'B', 'g', 'Q', '=', '=',
        ':', '7', '1', '8', '4'] := by decide +kernel

/-- R213: ALPHA at the ends of its ranges: 62, 63, and 25, 26, 51, 52. -/
theorem test_base64_alphabet :
    base64 (bytes [0xFB, 0xFF, 0xBF]) = text ['+', '/', '+', '/'] ∧
    base64 (bytes [0x65, 0xAC, 0xF4]) = text ['Z', 'a', 'z', '0'] := by decide +kernel

/-- R217: an empty compressed sequence. -/
theorem test_z64_empty :
    z64Payload (base64 []) = text [':', 'Z', '6', '4', ':', ':', '0', '0', '0', '0'] := by decide +kernel

theorem test_encZ64_needs_bitmap :
    view (exec .encZ64 { base with crcAcc := 7 }) (fun t => (t.err, t.errInfo, t.crcAcc)) = some (.sequence, 2, 7) := by decide +kernel

/-- R216: the start of ENC.Z64 clears the checksum and its error while the stage runs. -/
theorem test_encZ64_starts :
    view (exec .encZ64 { bitmap [0xC0] with crcAcc := 7, crcErr := true, stalls := [2] })
      (fun t => (t.busy, t.crcAcc, t.crcErr, t.done)) = some (true, 0, false, false) := by decide +kernel

/-- R235: the counts at the tier boundaries. -/
theorem test_acsCount :
    acsCount 3 = text ['I'] ∧ acsCount 19 = text ['Y'] ∧ acsCount 20 = text ['g'] ∧ acsCount 39 = text ['g', 'Y'] ∧
    acsCount 399 = text ['y', 'Y'] ∧ acsCount 400 = text ['z'] ∧ acsCount 799 = text ['z', 'y', 'Y'] := by decide +kernel

/-- L1-2 (C2): eleven AA bytes give "gHa". -/
theorem test_encAcs_run :
    view (exec .encAcs (bitmap (List.replicate 11 0xAA)))
      (fun t => (t.outLen, (List.range 3).map t.mem.out.read)) = some (3, text ['g', 'H', 'a']) := by decide +kernel

/-- V-A10: runs cross bytes. -/
theorem test_encAcs_crosses_bytes :
    view (exec .encAcs (bitmap [0xAB, 0xBB, 0xBA])) (fun t => (List.range 4).map t.mem.out.read) =
      some (text ['a', 'J', 'b', 'a']) := by decide +kernel

/-- V-A12 to V-A15: a run of 3 is replaced, runs of 1 and 2 are copied. -/
theorem test_acsPayload_short_runs :
    acsPayload (bytes [0x11, 0x12]) = text ['I', '1', '2'] ∧
    acsPayload (bytes [0x11, 0x12, 0x22, 0x21]) = text ['I', '1', 'J', '2', '1'] ∧
    acsPayload (bytes [0x00, 0x40, 0xC0]) = text ['0', '0', '4', '0', 'c', '0'] ∧
    acsPayload (bytes [0x00, 0x40, 0x40, 0x00]) = text ['0', '0', '4', '0', '4', 'I', '0'] := by decide +kernel

/-! ## CONVERT -/

/-- What CONVERT leaves of `s` while its ENC stage runs: the grid's and the bitmap's descriptors and bytes. -/
def converted (i : Instr) (s : State) : Option (Bool × Word × Word × Word × List Byte) :=
  view (exec i { s with stalls := [0, 0, 5] }) fun t =>
    (t.busy && t.gridValid && t.packValid, t.gridW, t.pkW, t.pkH, (List.range t.pkLen.toNat).map t.mem.pack.read)

/-- P2: the payload "c0c0" and STATUS 0x702. -/
theorem test_convertAcsN :
    view (exec .convertAcsN blackSquare) (fun t => ((List.range 4).map t.mem.out.read, t.readCsr .status)) =
      some (text ['c', '0', 'c', '0'], 0x702) := by decide +kernel

/-- P8: the empty trim runs on, to an empty payload. -/
theorem test_convertAcsN_empty :
    view (exec .convertAcsN whiteSquare) (fun t => (t.outLen, t.pkLen, t.readCsr .status)) = some (0, 0, 0x70A) := by decide +kernel

/-- P7's dots, 2 by 1, in each orientation. -/
theorem test_convertAcsI : converted .convertAcsI twoDots = some (true, 2, 2, 1, bytes [0xC0]) := by decide +kernel
theorem test_convertAcsL : converted .convertAcsL twoDots = some (true, 2, 1, 2, bytes [0x80, 0x80]) := by decide +kernel
theorem test_convertAcsB : converted .convertAcsB twoDots = some (true, 2, 1, 2, bytes [0x80, 0x80]) := by decide +kernel
theorem test_convertAcsR : converted .convertAcsR twoDots = some (true, 2, 1, 2, bytes [0x80, 0x80]) := by decide +kernel
theorem test_convertZ64N : converted .convertZ64N twoDots = some (true, 2, 2, 1, bytes [0xC0]) := by decide +kernel
theorem test_convertZ64I : converted .convertZ64I twoDots = some (true, 2, 2, 1, bytes [0xC0]) := by decide +kernel
theorem test_convertZ64L : converted .convertZ64L twoDots = some (true, 2, 1, 2, bytes [0x80, 0x80]) := by decide +kernel
theorem test_convertZ64B : converted .convertZ64B twoDots = some (true, 2, 1, 2, bytes [0x80, 0x80]) := by decide +kernel
theorem test_convertZ64R : converted .convertZ64R twoDots = some (true, 2, 1, 2, bytes [0x80, 0x80]) := by decide +kernel

/-- R111: an abort in the PACK stage leaves the grid valid, and runs no ENC stage. -/
theorem test_convert_abort :
    view (exec .convertAcsL { twoDots with capPack := 1 })
      (fun t => (t.gridValid, t.packValid, t.err, t.errInfo, t.stalls)) =
      some (true, false, .capacity, 3, [0]) := by decide +kernel

/-! ## SOFT.RESET, the busy window and the bus -/

/-- R112: the running command's destination may hold anything, another buffer keeps its contents. -/
theorem test_softReset_ends_command :
    view (exec .softReset (during .thresh .thresh [] smallGrid))
      (fun t => (t.busy, t.done, t.black, t.mem.grid.cells.length)) = some (false, false, 50, 0) ∧
    view (exec .softReset (during .thresh .thresh [] blackSquare)) (fun t => t.mem.pix) = some blackSquare.mem.pix := by
  decide +kernel

theorem test_softReset_keeps_grid :
    view (exec .softReset smallGrid) (fun t => (t.cell 0 0, t.mem.grid.read 0, t.gridValid)) =
      some (true, true, false) := by decide +kernel

/-- R106, R71: while THRESH runs a WIDTH write is dropped; a DONE set at the end of the access survives a W1C. -/
theorem test_busy_window :
    view (step { during .thresh .thresh [] blackSquare with inputs := [.host (.store .word 0x014 5)] })
      (fun t => (t.width, t.conflict, t.done)) = some (2, true, true) ∧
    view (step { during .thresh .thresh [] blackSquare with inputs := [.host (.store .word 0x004 2)] })
      (fun t => (t.conflict, t.done)) = some (false, true) := by decide +kernel

/-- R23, R62: registers next to each other store and read their own word; R66: a write to CAP_OUT is ignored. -/
theorem test_csr_words :
    view (stepLoad .word 0x030 (after1 (stepStore .word 0x030 0x80000001 { base with pkH := 7 })))
      (fun t => (t.rdata, t.pkW, t.pkH, t.pkRowlen)) = some (0x80000001, 0x80000001, 7, 0) ∧
    view (stepLoad .word 0x054 (after1 (stepStore .word 0x054 5 base))) (·.rdata) = some 1024 := by decide +kernel

/-- R111, R157: a grid too large ends CONVERT at its first stage. -/
theorem test_convert_grid_overflow :
    view (exec .convertAcsR { twoDots with capGrid := 1 }) (fun t => (t.gridValid, t.err, t.errInfo, t.stalls)) =
      some (false, .capacity, 2, [0, 0]) := by decide +kernel

/-- R111, R234: a payload too long ends CONVERT.ACS with its grid and bitmap valid. -/
theorem test_convert_payload_overflow :
    view (exec .convertAcsN { twoDots with capOut := 1 }) (fun t => (t.packValid, t.outValid, t.err, t.errInfo)) =
      some (true, false, .capacity, 4) := by decide +kernel

/-- V-R5: CFG keeps BLACK and NOTRIM. V-R2: its reset value. -/
theorem test_cfg :
    (State.reset.writeCsr 0xFFFFFFFF .cfg).readCsr .cfg = 0x17F ∧ State.reset.readCsr .cfg = 0x32 := by decide +kernel

/-- V-R6 to V-R9. -/
theorem test_bus_errors :
    place base .byte 0x004 = .error .csrWidth ∧ place base .word 0x058 = .error .csrHole ∧
    storeKind base .byte 0x40000000 1 = .error .outWrite ∧ place base .half 0x10000001 = .error .misaligned ∧
    place base .word 0x10001000 = .error .unmapped ∧ place base .word 0x10000FFC = .ok (.pix 4092) := by decide +kernel

/-- V-R10: little-endian. -/
theorem test_little_endian :
    view (stepLoad .byte 0x10000003 (after1 (stepStore .word 0x10000000 0x44332211 base))) (·.rdata) = some 0x44 := by decide +kernel

/-- R43, R62: the payload "gHa" of L1-2 as the host reads it from OUT. -/
theorem test_load_payload :
    view (stepLoad .half 0x40000000 (after1 (exec .encAcs (bitmap (List.replicate 11 0xAA))))) (·.rdata) =
      some 0x4867 := by decide +kernel

/-- R41: cell 0 is bit 7 of GRID byte 0; V-R11: the write clears GRID_VALID. -/
theorem test_grid_bit_order :
    view (stepStore .half 0x20000000 0x8001 { base with gridValid := true })
      (fun t => (t.mem.grid.read 0, t.mem.grid.read 7, t.mem.grid.read 8, t.gridValid)) =
      some (false, true, true, false) := by decide +kernel

/-- R275: power loss makes every buffer any value. -/
theorem test_power_on :
    view (step { smallGrid with inputs := [.powerOn] }) (fun t => (t.mem.grid.cells.length, t.mem.wf, t.capPix)) =
      some (0, true, 4096) := by decide +kernel

/-- P10, both admitted runs: the WIDTH write comes while the command runs, or after it. -/
theorem test_both_durations :
    (runProgram [(issueOp .convertAcsN, none), (.store .word 0x014 5, none), (.wait, none), (.load .word 0x014, some 2),
      (.load .word 0x004, some 0x712)] { blackSquare with stalls := [9, 0, 0] }).isSome = true ∧
    (runProgram [(issueOp .convertAcsN, none), (.store .word 0x014 5, none), (.wait, none), (.load .word 0x014, some 5),
      (.load .word 0x004, some 0x702)] blackSquare).isSome = true := by decide +kernel

/-- R93: the expansions. -/
theorem test_pseudo_instructions :
    crcStr [0x41] = [.store .word 0 1, .wait, .store .word 0x3C 0x41] ∧
    runThenWait .thresh = [.store .word 0 0x10, .wait] ∧
    fillB 0x30000000 2 0xAA = [.store .byte 0x30000000 0xAA, .store .byte 0x30000001 0xAA] ∧
    pixelOp 1 1 2 ⟨1, 2, 3, 255⟩ = .store .word 0x1000000C 0xFF030201 ∧
    setCfg 50 1 = .store .word 0x01C 0x132 ∧ setCfg 300 1 = .store .word 0x01C 0x12C := by decide +kernel

/-! ## Witnesses: states and operands that meet the hypotheses of the statements, clause by clause -/

/-- The reset block about to make one host operation. -/
def idleWith (op : HostOp) : State := { base with inputs := [.host op] }

/-- The same while THRESH runs. -/
def busyWith (op : HostOp) : State := { during .thresh .thresh [] blackSquare with inputs := [.host op] }

theorem answers {o : Host.Outcome State Fault Refusal} (h : (view o fun _ => true) = some true) :
    o = .next (after1 o) := by
  cases o <;> simp_all [view, after1]

theorem witness_DecodeAndEncodeAgree :
    Instr.wf (.crcFeed 0xFFFFFFFF) = true ∧ decodeWrite 0x03C 0xFFFFFFFF = .ok (.crcFeed 0xFFFFFFFF) ∧
    decodeWrite 0x000 0x000000FF = .ok .softReset := by decide +kernel

/-- One word for each disjunct, and the neighbours of the admitted values. -/
theorem witness_UndecodableWordsAreRejected :
    (idleWith (.store .word 0x000 0x810)).seq = .idle ∧
    (idleWith (.store .word 0x000 0x810)).inputs = [.host (.store .word 0x000 0x810)] ∧
    (0x810 / 2048 % 2 ≠ 0) ∧ (0x2010 / 8192 ≠ 0) ∧ (0x80000010 / 8192 ≠ 0) ∧
    (0x12 % 256 ∉ [0x01, 0x10, 0x11, 0x20, 0x21, 0x30, 0x40, 0xFF]) ∧
    (0x1FF % 256 = 0xFF ∧ 0x1FF / 256 % 8 ≠ 0) ∧ (0x1001 % 256 = 0x01 ∧ 0x1001 / 4096 % 2 ≠ 0) ∧
    (0x520 % 256 = 0x20 ∧ 4 < 0x520 / 256 % 8) ∧ (0x1420 % 256 = 0x20 ∧ 0x1420 / 4096 % 2 ≠ 0) ∧
    (0x1130 % 256 = 0x30 ∧ 0x1130 / 256 % 8 ≠ 0) ∧ (0x740 % 256 = 0x40 ∧ 4 < 0x740 / 256 % 8) := by decide +kernel

/-- Both ports, idle and busy. -/
theorem witness_StepRunsTheDecodedInstruction :
    (idleWith (.store .word Csr.cmd.offset 0x10)).inputs = [.host (.store .word Csr.cmd.offset 0x10)] ∧
    decodeWrite Csr.cmd.offset 0x10 = .ok .thresh ∧
    (busyWith (.store .word Csr.crcData.offset 0x100)).inputs = [.host (.store .word Csr.crcData.offset 0x100)] ∧
    decodeWrite Csr.crcData.offset 0x100 = .ok (.crcFeed 0x100) ∧
    (busyWith (.store .word Csr.cmd.offset 0xFF)).busy = true ∧
    (busyWith (.load .half 0x10000002)).inputs = [.host (.load .half 0x10000002)] := by decide +kernel

/-- The premises that `CrcInitStartsNewChecksum`, `ChecksumOfAString` and `PackBIsPackL` make on the state. -/
theorem witness_idle_and_no_time : base.seq = .idle ∧ base.nextStall = 0 := by decide +kernel

/-- The four clauses, at 255 and 256. -/
theorem witness_CrcFeedUpdatesOrFreezes :
    (base.seq = .idle ∧ base.crcErr = false ∧ (0xFF : Word).toNat ≤ 255) ∧ 255 < (0x100 : Word).toNat ∧
    ({ base with crcErr := true }.seq = .idle ∧ { base with crcErr := true }.crcErr = true) ∧
    (during .thresh .thresh [] base).seq ≠ .idle := by decide +kernel

/-- A string whose codes are all at most 255, and one with a code above it. -/
theorem witness_ChecksumOfAString :
    view (execAll (.crcInit :: [0x41, 0xFF].map .crcFeed) base) (·.crcErr) = some false ∧
    view (execAll (.crcInit :: [0x41, 0x100].map .crcFeed) base) (·.crcErr) = some true := by decide +kernel

/-- Each check at its boundary: WIDTH 0 and 2^31, BLACK 0 and 100, PIX_LEN one above CAP_PIX. -/
theorem witness_ThresholdChecksInOrder :
    blackSquare.seq = .idle ∧ (0x80000000 : Word).toInt ≤ 0 ∧ (0 : Word).toInt ≤ 0 ∧
    0 < blackSquare.width.toInt ∧ (0 : BitVec 7).toNat < 1 ∧ 99 < (100 : BitVec 7).toNat ∧
    1 ≤ blackSquare.black.toNat ∧ blackSquare.black.toNat ≤ 99 ∧
    blackSquare.capPix.toNat < ({ blackSquare with pixLen := 4097 }).pixLen.toNat := by decide +kernel

theorem witness_ThresholdWritesTheGrid :
    twoDots.seq = .idle ∧ twoDots.nextStall = 0 ∧ 0 < twoDots.width.toInt ∧ 1 ≤ twoDots.black.toNat ∧
    twoDots.black.toNat ≤ 99 ∧ twoDots.pixLen.toNat ≤ twoDots.capPix.toNat ∧
    twoDots.window.w * twoDots.window.h ≤ twoDots.capGrid.toNat := by decide +kernel

theorem witness_NoTrimGridIsTheWholeImage :
    let s := { twoDots with notrim := true }
    s.seq = .idle ∧ s.nextStall = 0 ∧ 0 < s.width.toInt ∧ 1 ≤ s.black.toNat ∧ s.black.toNat ≤ 99 ∧
    s.pixLen.toNat ≤ s.capPix.toNat ∧ s.notrim = true ∧
    s.width.toInt.toNat * (s.pixLen.toNat / (4 * s.width.toInt.toNat)) ≤ s.capGrid.toNat := by decide +kernel

/-- Pixel (x, y) of the image, from its four bytes, is ink, as `TrimCropsToTheInk` writes it. -/
def isInk (s : State) (x y : Nat) : Prop :=
  let w := s.width.toInt.toNat
  let p := 4 * (y * w + x)
  x < w ∧ y < s.pixLen.toNat / (4 * w) ∧
    ink ⟨s.mem.pix.read p, s.mem.pix.read (p + 1), s.mem.pix.read (p + 2), s.mem.pix.read (p + 3)⟩ s.black.toNat = true

/-- The first clause: the least rectangle round the ink of `twoDots` is x 1 to 2, y 1. -/
theorem witness_TrimCropsToTheInk :
    (∀ x y, isInk twoDots x y → 1 ≤ x ∧ x ≤ 2 ∧ 1 ≤ y ∧ y ≤ 1) ∧ (∃ y, isInk twoDots 1 y) ∧
    (∃ y, isInk twoDots 2 y) ∧ (∃ x, isInk twoDots x 1) ∧ (2 - 1 + 1) * (1 - 1 + 1) ≤ twoDots.capGrid.toNat ∧
    twoDots.notrim = false := by
  have h : ∀ x < twoDots.width.toInt.toNat, ∀ y < twoDots.pixLen.toNat / (4 * twoDots.width.toInt.toNat),
      ink (twoDots.pixel x y) twoDots.black.toNat = true → 1 ≤ x ∧ x ≤ 2 ∧ 1 ≤ y ∧ y ≤ 1 := by decide +kernel
  refine ⟨fun x y hi => h x hi.1 y hi.2.1 hi.2.2, ⟨1, ?_⟩, ⟨1, ?_⟩, ⟨1, ?_⟩, ?_, ?_⟩ <;>
    first | decide +kernel | (unfold isInk; decide +kernel)

/-- The second clause: a white image has no ink. -/
theorem witness_TrimCropsToTheInk_empty :
    (∀ x y, ¬ isInk whiteSquare x y) ∧ whiteSquare.notrim = false ∧ whiteSquare.nextStall = 0 := by
  have h : ∀ x < whiteSquare.width.toInt.toNat,
      ∀ y < whiteSquare.pixLen.toNat / (4 * whiteSquare.width.toInt.toNat),
      ¬ ink (whiteSquare.pixel x y) whiteSquare.black.toNat = true := by decide +kernel
  exact ⟨fun x y hi => h x hi.1 y hi.2.1 hi.2.2, by decide +kernel, by decide +kernel⟩

/-- The hypotheses are the same for THRESH and for each CONVERT. -/
theorem witness_GridOverflowAborts :
    let s := { twoDots with capGrid := 1 }
    s.seq = .idle ∧ s.nextStall = 0 ∧ 0 < s.width.toInt ∧ 1 ≤ s.black.toNat ∧ s.black.toNat ≤ 99 ∧
    s.pixLen.toNat ≤ s.capPix.toNat ∧ s.capGrid.toNat < s.window.w * s.window.h := by decide +kernel

/-- Two different blocks: the second differs in a byte beyond the image and in another buffer. -/
theorem witness_ThresholdReadsOnlyItsOperands :
    let s' := { twoDots.setPix (twoDots.mem.pix.write 48 7) with gridValid := true }
    twoDots.width = s'.width ∧ twoDots.pixLen = s'.pixLen ∧ twoDots.black = s'.black ∧ twoDots.notrim = s'.notrim ∧
    ∀ k, k < 4 * twoDots.columns * twoDots.rows → twoDots.mem.pix.read k = s'.mem.pix.read k := by decide +kernel

/-- Both clauses, at the boundary: 1024 and 1056 cells. -/
theorem witness_LoadGridChecksTheSize :
    ({ base with gridW := 32, gridH := 32 }.seq = .idle ∧ { base with gridW := 32, gridH := 32 }.nextStall = 0 ∧
      (32 : Word).toNat * (32 : Word).toNat ≤ base.capGrid.toNat) ∧
    base.capGrid.toNat < (33 : Word).toNat * (32 : Word).toNat := by decide +kernel

theorem witness_PackWritesTheBitmap :
    smallGrid.seq = .idle ∧ smallGrid.nextStall = 0 ∧ smallGrid.gridValid = true ∧
    (∀ o ∈ [Orient.normal, .invert, .rotateLeft, .rotateRight],
      let d := outDims o smallGrid.gridW.toNat smallGrid.gridH.toNat
      ceil8 d.1 * d.2 ≤ smallGrid.capPack.toNat) := by decide +kernel

/-- The first check alone, and the second after the first has passed. -/
theorem witness_PackChecksInOrder :
    { smallGrid with gridValid := false }.gridValid = false ∧ smallGrid.gridValid = true ∧
    (∀ o ∈ [Orient.normal, .invert, .rotateLeft, .rotateRight],
      let d := outDims o smallGrid.gridW.toNat smallGrid.gridH.toNat
      { smallGrid with capPack := 1 }.capPack.toNat < ceil8 d.1 * d.2) := by decide +kernel

/-- `RowsArePackedMsbFirst`: the last row and its last padding bit. `OrientationsCompose`: the last cell, both ways. -/
theorem witness_grid_coordinates :
    (1 < 2 ∧ 15 < 8 * ceil8 9) ∧ (2 < 3 ∧ 1 < 2) ∧ (1 < 2 ∧ 2 < 3) := by decide +kernel

/-- Two different blocks: the second differs in a cell beyond the grid. -/
theorem witness_PackReadsOnlyItsCells :
    let s' := smallGrid.setGrid (smallGrid.mem.grid.write 6 true)
    smallGrid.gridW = s'.gridW ∧ smallGrid.gridH = s'.gridH ∧
    ∀ k, k < smallGrid.gridW.toNat * smallGrid.gridH.toNat → smallGrid.mem.grid.read k = s'.mem.grid.read k := by
  decide +kernel

/-- What `LoadPackChecksTheDescriptors` calls good. -/
def goodPack (s : State) : Bool :=
  decide (s.pkRowlen.toNat = (s.pkW.toNat + 7) / 8 ∧ s.pkLen.toNat = s.pkRowlen.toNat * s.pkH.toNat)

/-- The three clauses: a wrong PK_LEN; 1025 bytes; 1024 bytes. -/
theorem witness_LoadPackChecksTheDescriptors :
    goodPack { base with pkW := 8, pkRowlen := 1, pkH := 2, pkLen := 1 } = false ∧
    (goodPack { base with pkW := 8, pkRowlen := 1, pkH := 1025, pkLen := 1025 } = true ∧
      base.capPack.toNat < (1025 : Word).toNat) ∧
    (goodPack { base with pkW := 8, pkRowlen := 1, pkH := 1024, pkLen := 1024 } = true ∧
      (1024 : Word).toNat ≤ base.capPack.toNat ∧
      { base with pkW := 8, pkRowlen := 1, pkH := 1024, pkLen := 1024 }.nextStall = 0) := by decide +kernel

/-- `EncZ64WritesThePayload`, and both clauses of `EncAcsWritesThePayload`. -/
theorem witness_EncWritesThePayload :
    let s := bitmap [0xC0]
    let s' := { s with capOut := 1 }
    (s.seq = .idle ∧ s.nextStall = 0 ∧ s.packValid = true) ∧ (acsPayload s.packed).length ≤ s.capOut.toNat ∧
    s'.capOut.toNat < (acsPayload s'.packed).length := by decide +kernel

theorem witness_EncNeedsAValidBitmap : base.seq = .idle ∧ base.packValid = false := by decide +kernel

/-- The first and the last group, with three bytes and with one. -/
theorem witness_Z64PayloadIsFramed :
    3 * 0 < (bytes [1, 2, 3, 4]).length ∧ 3 * 1 < (bytes [1, 2, 3, 4]).length ∧
    (3 * 0 + 2 < (bytes [1, 2, 3, 4]).length ∧ ¬ 3 * 1 + 1 < (bytes [1, 2, 3, 4]).length) := by decide +kernel

theorem witness_Base64LosesNothing : base64 (bytes [1, 2]) = base64 (bytes [1, 2]) := by decide +kernel

theorem witness_AcsMarkersCountTheRun :
    3 ≤ 3 ∧ (acsCount 3).map markerValue = [some 3] ∧ (acsCount 439).map markerValue = [some 400, some 20, some 19] := by
  decide +kernel

/-- The runs of V-A14, of length 2 and 1. -/
theorem witness_AcsNeverExpands :
    maximalRuns (hexText (bytes [0x00, 0x40, 0xC0]))
      [(0x30, 2), (0x34, 1), (0x30, 1), (0x63, 1), (0x30, 1)] ∧
    maximalRuns (hexText (bytes [0x11, 0x12])) [(0x31, 3), (0x32, 1)] := by
  unfold maximalRuns
  decide +kernel

/-- The bitmap that CONVERT makes of `s`. -/
def convertBytes (o : Orient) (s : State) : List Byte :=
  let v := s.window
  let d := outDims o v.w v.h
  packBytes d.1 d.2 (outCell o v.w v.h fun x y => s.inkAt (v.x0 + x) (v.y0 + y))

/-- `ConvertAcsWritesAllThree` and `ConvertZ64WritesAllThree`, in every orientation. -/
theorem witness_ConvertWritesAllThree :
    twoDots.seq = .idle ∧ twoDots.stalls = [0, 0, 0] ∧ 0 < twoDots.width.toInt ∧ 1 ≤ twoDots.black.toNat ∧
    twoDots.black.toNat ≤ 99 ∧ twoDots.pixLen.toNat ≤ twoDots.capPix.toNat ∧
    twoDots.window.w * twoDots.window.h ≤ twoDots.capGrid.toNat ∧
    (∀ o ∈ [Orient.normal, .invert, .rotateLeft, .rotateRight],
      let d := outDims o twoDots.window.w twoDots.window.h
      ceil8 d.1 * d.2 ≤ twoDots.capPack.toNat ∧
      (acsPayload (convertBytes o twoDots)).length ≤ twoDots.capOut.toNat) := by decide +kernel

/-- The second clause of `ConvertAcsWritesAllThree`, at the boundary: the payload has 2 characters, CAP_OUT is 1. -/
theorem witness_ConvertAcsWritesAllThree_overflow :
    let s := { twoDots with capOut := 1 }
    s.seq = .idle ∧ s.stalls = [0, 0, 0] ∧ 0 < s.width.toInt ∧ 1 ≤ s.black.toNat ∧ s.black.toNat ≤ 99 ∧
    s.pixLen.toNat ≤ s.capPix.toNat ∧ s.window.w * s.window.h ≤ s.capGrid.toNat ∧
    ceil8 (outDims .normal s.window.w s.window.h).1 * (outDims .normal s.window.w s.window.h).2 ≤ s.capPack.toNat ∧
    s.capOut.toNat < (acsPayload (convertBytes .normal s)).length := by decide +kernel

/-- A bitmap too big by one byte; P7's image in N needs 1 byte and the capacity is 0. -/
theorem witness_ConvertAbortsWhenThePackIsTooBig :
    let s := { twoDots with capPack := 0 }
    s.seq = .idle ∧ s.stalls = [0, 0, 0] ∧ 0 < s.width.toInt ∧ 1 ≤ s.black.toNat ∧ s.black.toNat ≤ 99 ∧
    s.pixLen.toNat ≤ s.capPix.toNat ∧ s.window.w * s.window.h ≤ s.capGrid.toNat ∧
    (∀ o ∈ [Orient.normal, .invert, .rotateLeft, .rotateRight],
      let d := outDims o s.window.w s.window.h
      s.capPack.toNat < ceil8 d.1 * d.2) := by decide +kernel

/-- The three commands of `ConvertEqualsThreeCommands` one by one, each without an error. -/
theorem witness_ConvertEqualsThreeCommands :
    let t1 := after1 (exec .thresh twoDots)
    let t2 := after1 (exec .packL t1)
    let t3 := after1 (exec .encAcs t2)
    twoDots.seq = .idle ∧ twoDots.stalls = [0, 0, 0] ∧ exec .thresh twoDots = .next t1 ∧ t1.err = .none ∧
    exec .packL t1 = .next t2 ∧ t2.err = .none ∧ exec .encAcs t2 = .next t3 ∧ t3.err = .none := by
  refine ⟨?_, ?_, answers ?_, ?_, answers ?_, ?_, answers ?_, ?_⟩ <;> decide +kernel

/-- Each buffer is kept by a reset that ends another command, and all by one that ends none; each is the destination of
some command. -/
theorem witness_SoftResetKeepsOnlyTheBuffers :
    (during .packN (.pack .normal) [] smallGrid).gridOpen = false ∧
    (during .encAcs (.enc .acs) [] smallGrid).packOpen = false ∧
    (during .thresh .thresh [] smallGrid).outOpen = false ∧ smallGrid.seq = .idle ∧
    (during .thresh .thresh [] smallGrid).gridOpen = true ∧
    (during .packN (.pack .normal) [] smallGrid).packOpen = true ∧
    (during .encAcs (.enc .acs) [] smallGrid).outOpen = true := by decide +kernel

/-- The three ways of a reset, the last of them at power-on. -/
theorem witness_EveryResetSetsTheRegisters :
    exec .softReset smallGrid = .next (after1 (exec .softReset smallGrid)) ∧
    step { smallGrid with inputs := [.hwReset] } = .next (after1 (step { smallGrid with inputs := [.hwReset] })) ∧
    step { smallGrid with inputs := [.powerOn] } = .next (after1 (step { smallGrid with inputs := [.powerOn] })) := by
  refine ⟨answers ?_, answers ?_, answers ?_⟩ <;> decide +kernel

/-- Both cases: a command that still runs, and one that has completed. -/
theorem witness_CommandShowsBusyOrDone :
    portOf .thresh = .cmd ∧ twoDots.seq = .idle ∧
    exec .thresh twoDots = .next (after1 (exec .thresh twoDots)) ∧
    (after1 (exec .thresh twoDots)).busy = false ∧
    (after1 (exec .thresh { twoDots with stalls := [3] })).busy = true := by
  refine ⟨?_, ?_, answers ?_, ?_, ?_⟩ <;> decide +kernel

/-- A store for each clause of `BusyBlockDropsWrites`, on a block that runs THRESH. -/
theorem witness_BusyBlockDropsWrites :
    let s := during .thresh .thresh [] blackSquare
    s.seq ≠ .idle ∧ place s .word 0x014 = .ok (.csr .width) ∧ place s .byte 0x20000000 = .ok (.grid 0) ∧
    (place s .word 0x000 = .ok (.csr .cmd) ∧ (0x10 : Word) ≠ 0x000000FF) ∧
    place s .word 0x004 = .ok (.csr .status) ∧ place s .word 0x010 = .ok (.csr .irqEn) ∧
    place s .half 0x40000002 = .ok (.out 2) ∧ place s .half 0x014 = .error .csrWidth := by decide +kernel

/-- A load for each clause of `BusyReads`, each buffer inside and outside the running command's destination. -/
theorem witness_BusyReads :
    let s := during .thresh .thresh [] blackSquare
    s.seq ≠ .idle ∧ place s .word 0x054 = .ok (.csr .capOut) ∧ place s .byte 0x10000FFF = .ok (.pix 4095) ∧
    (s.gridOpen = true ∧ place s .half 0x2000007E = .ok (.grid 126)) ∧
    (s.packOpen = false ∧ place s .word 0x300003FC = .ok (.pack 1020)) ∧
    (s.outOpen = false ∧ place s .word 0x038 = .ok (.csr .outLen)) ∧ place s .word 0x03C = .ok (.csr .crcData) ∧
    (during .packN (.pack .normal) [] smallGrid).gridOpen = false ∧
    (during .packN (.pack .normal) [] smallGrid).packOpen = true ∧
    (during .encAcs (.enc .acs) [] smallGrid).outOpen = true := by decide +kernel

/-- Each clause of the frame has instructions it speaks of, and they answer next, on an idle and on a busy block. -/
theorem witness_InstructionsKeepWhatTheyDoNotOwn :
    exec .thresh twoDots = .next (after1 (exec .thresh twoDots)) ∧
    exec .packN (during .thresh .thresh [] twoDots) = .next (after1 (exec .packN (during .thresh .thresh [] twoDots))) ∧
    twoDots.seq = .idle ∧ (during .thresh .thresh [] twoDots).seq ≠ .idle ∧ Stage.thresh ∉ stagesOf .loadGrid ∧
    (∀ o ∈ [Orient.normal, .invert, .rotateLeft, .rotateRight], Stage.pack o ∉ stagesOf .thresh) ∧
    (∀ f ∈ [Fmt.z64, .acs], Stage.enc f ∉ stagesOf .packN) ∧ Stage.enc .z64 ∉ stagesOf .convertAcsN := by
  refine ⟨answers ?_, answers ?_, ?_, ?_, ?_, ?_, ?_, ?_⟩ <;> decide +kernel

/-- Two durations of one command, one of them longer than nothing. -/
theorem witness_DurationDoesNotChangeTheResult :
    twoDots.seq = .idle ∧ exec .convertAcsN twoDots = .next (after1 (exec .convertAcsN twoDots)) ∧
    exec .convertAcsN { twoDots with stalls := [1, 2, 3] } =
      .next (after1 (exec .convertAcsN { twoDots with stalls := [1, 2, 3] })) := by
  refine ⟨?_, answers ?_, answers ?_⟩ <;> decide +kernel

/-- A CONVERT at its first stage while the host waits. -/
theorem witness_WaitEnds :
    let s := during .convertAcsN .thresh [.pack .normal, .enc .acs] { twoDots with inputs := [.host .wait] }
    s.seqOk = true ∧ s.inputs = [.host .wait] ∧ s.busy = true := by decide +kernel

/-- A host that writes a command, reads STATUS while it runs, waits, and reads GRID_W. -/
theorem witness_HazardFreeHostSeesNoConflict :
    let s := { twoDots with stalls := [5], inputs := [.host (issueOp .thresh), .host (.load .word 0x004), .host .wait,
      .host (.load .word 0x020)] }
    s.conflict = false ∧ obeysHazards s.busy s.inputs = true ∧ step s = .next (after1 (step s)) ∧
    (after1 (step s)).busy = true := by
  refine ⟨?_, ?_, answers ?_, ?_⟩ <;> decide +kernel

theorem witness_BusErrorsAreExactlyTheListed : base.capsOk = true := by decide +kernel

/-- Each buffer, at each width and at its end; the elements next to the stored ones meet the frame's premises. -/
theorem witness_LoadReadsWhatTheStoreWrote :
    base.seq = .idle ∧ place base .word 0x10000FFC = .ok (.pix 4092) ∧ place base .byte 0x2000007F = .ok (.grid 127) ∧
    place base .half 0x300003FE = .ok (.pack 1022) ∧ 4091 < 4092 ∧ 1015 < 8 * 127 ∧ 8 * (127 + 1) ≤ 1024 ∧
    1022 + 2 ≤ 1024 ∧ place base .byte 0x400003FF = .ok (.out 1023) := by decide +kernel

/-- `HostWritesInvalidate` from valid bits, and the two clauses of `InterruptFollowsCompletion`. -/
theorem witness_HostWritesInvalidate_and_InterruptFollowsCompletion :
    smallGrid.seq = .idle ∧ smallGrid.gridValid = true ∧ (bitmap [1]).packValid = true ∧
    (Csr.width ≠ .cmd ∧ Csr.capOut ≠ .crcData) ∧
    exec .thresh { twoDots with doneIe := true } = .next (after1 (exec .thresh { twoDots with doneIe := true })) ∧
    (after1 (exec .thresh { twoDots with doneIe := true })).irq = true ∧ (2 : Word).getLsbD 1 = true ∧
    (2 : Word).getLsbD 0 = false := by
  refine ⟨?_, ?_, ?_, ?_, answers ?_, ?_, ?_, ?_⟩ <;> decide +kernel

/-- The invariants hold together in a state in the middle of a CONVERT, and it answers next. -/
theorem witness_StepKeeps :
    let s := during .convertAcsN (.pack .normal) [.enc .acs] smallGrid
    s.memOk = true ∧ s.validOk = true ∧ s.reportOk = true ∧ s.seqOk = true ∧ step s = .next (after1 (step s)) := by
  refine ⟨?_, ?_, ?_, ?_, answers ?_⟩ <;> decide +kernel

end Sys2Proof.Tests
end

section
/-! SUPPORT. The capacities an implementation fixes are legal (00_scope.md R8), the CAP_ registers hold them after
reset (10_state.md R38), and the state after reset meets the invariants (70_reset_and_hazards.md R280). -/

namespace Sys2Proof

/-! ## The parameters are legal -/

theorem Config.pixBytes_legal : pixBytes % 4 = 0 ∧ 4 ≤ pixBytes ∧ pixBytes ≤ 2 ^ 28 := by
  have := pixUnits.isLt
  unfold pixBytes
  omega

theorem Config.gridBits_legal : gridBits % 32 = 0 ∧ 32 ≤ gridBits ∧ gridBits ≤ 2 ^ 31 := by
  have := gridUnits.isLt
  unfold gridBits
  omega

theorem Config.packBytes_legal : packBytes % 4 = 0 ∧ 4 ≤ packBytes ∧ packBytes ≤ 2 ^ 28 := by
  have := packUnits.isLt
  unfold packBytes
  omega

theorem Config.outBytes_legal : outBytes % 4 = 0 ∧ 12 ≤ outBytes ∧ outBytes ≤ 2 ^ 28 := by
  have := outUnits.isLt
  unfold outBytes
  omega

/-- `capsLegal`, capacity by capacity. -/
theorem capsLegal_iff (pix grid pack out : Nat) : capsLegal pix grid pack out = true ↔
    (pix % 4 = 0 ∧ 4 ≤ pix ∧ pix ≤ 2 ^ 28) ∧ (grid % 32 = 0 ∧ 32 ≤ grid ∧ grid ≤ 2 ^ 31) ∧
    (pack % 4 = 0 ∧ 4 ≤ pack ∧ pack ≤ 2 ^ 28) ∧ (out % 4 = 0 ∧ 12 ≤ out ∧ out ≤ 2 ^ 28) := by
  simp only [capsLegal, Bool.and_eq_true, decide_eq_true_eq, and_assoc]

theorem Config.caps_legal : capsLegal pixBytes gridBits packBytes outBytes = true :=
  (capsLegal_iff ..).mpr ⟨pixBytes_legal, gridBits_legal, packBytes_legal, outBytes_legal⟩

namespace Machine

/-! ## A legal capacity fits its CAP_ register -/

@[simp] theorem reset_capPix_toNat : State.reset.capPix.toNat = Config.pixBytes := by
  obtain ⟨-, -, hle⟩ := Config.pixBytes_legal
  exact (BitVec.toNat_ofNat ..).trans (Nat.mod_eq_of_lt (by omega))

@[simp] theorem reset_capGrid_toNat : State.reset.capGrid.toNat = Config.gridBits := by
  obtain ⟨-, -, hle⟩ := Config.gridBits_legal
  exact (BitVec.toNat_ofNat ..).trans (Nat.mod_eq_of_lt (by omega))

@[simp] theorem reset_capPack_toNat : State.reset.capPack.toNat = Config.packBytes := by
  obtain ⟨-, -, hle⟩ := Config.packBytes_legal
  exact (BitVec.toNat_ofNat ..).trans (Nat.mod_eq_of_lt (by omega))

@[simp] theorem reset_capOut_toNat : State.reset.capOut.toNat = Config.outBytes := by
  obtain ⟨-, -, hle⟩ := Config.outBytes_legal
  exact (BitVec.toNat_ofNat ..).trans (Nat.mod_eq_of_lt (by omega))

/-! ## The invariants after reset -/

/-- R67: nothing is listed, so nothing is listed at or beyond a capacity, whatever the capacities are. -/
theorem memOk_reset : State.reset.memOk = true := rfl

theorem validOk_reset : State.reset.validOk = true := rfl

theorem reportOk_reset : State.reset.reportOk = true := rfl

theorem seqOk_reset : State.reset.seqOk = true := rfl

theorem capsOk_reset : State.reset.capsOk = true := by
  simp [State.capsOk, Config.caps_legal]

/-- Settles O60: the valid bits and the report are clear, the sequencer is idle and memory lists nothing; the CAP_
registers hold the parameters, which are legal and below 2^32. -/
theorem resetMeetsTheInvariants : Obligations.ResetMeetsTheInvariants :=
  ⟨memOk_reset, validOk_reset, reportOk_reset, seqOk_reset, capsOk_reset,
    reset_capPix_toNat, reset_capGrid_toNat, reset_capPack_toNat, reset_capOut_toNat⟩

end Machine

end Sys2Proof
end

section
/-! SUPPORT. One rule for the invariants: what keeps a property of states over every step, event by event
(40_control.md R100 to R106). -/

namespace Sys2Proof.Machine

theorem enter_eq (cmd : Instr) (st : Stage) (rest : List Stage) (s : State) :
    s.enter cmd st rest = { s with
      empty := if st = .thresh then false else s.empty
      crcErr := if st = .enc .z64 then false else s.crcErr
      crcAcc := if st = .enc .z64 then 0 else s.crcAcc
      seq := .run cmd st rest s.nextStall
      stalls := s.stalls.tail
      started := s.started + 1 } := by
  rw [State.enter, stageStart_eq]

/-- R103: a word that does not decode is rejected, and nothing but the report changes. -/
theorem badCommand_idle {s : State} (h : s.seq = .idle) (wd : Word) :
    badCommand wd s = s.rejected .badCommand wd := by
  simp only [badCommand, busy_eq_false h]
  rfl

/-- What a passed acceptance check says of the operands of a command's first stage (R160, R180, R190, R210, R230). -/
structure Admitted (st : Stage) (s : State) : Prop where
  grid : st.toPack = true → s.gridValid = true
  pack : st.toOut = true → s.packValid = true
  gridFits : st = .loadGrid → s.gridFits = true
  packFits : st = .loadPack → s.packFits = true

theorem loadGridCheck_none {s : State} (h : loadGridCheck s = none) : s.gridFits = true := by
  unfold loadGridCheck at h
  split at h
  · cases h
  · exact decide_eq_true (by omega)

theorem loadPackCheck_none {s : State} (h : loadPackCheck s = none) : s.packFits = true := by
  unfold loadPackCheck at h
  split at h
  · cases h
  · split at h
    · cases h
    · exact decide_eq_true (by omega)

/-- The events of a step, each with the claim that it keeps `P`. -/
structure KeptByEvents (P : State → Prop) : Prop where
  inputs : ∀ u l, P u → P { u with inputs := l }
  read : ∀ u d n, P u → P { u with rdata := d, draws := n }
  stages : ∀ u cmd st rest left, u.seq = .run cmd st rest left → P u → P (runStages cmd st rest u)
  count : ∀ u cmd st rest left, u.seq = .run cmd st rest left → P u → P { u with seq := .run cmd st rest (left - 1) }
  reset : ∀ u, P u → P u.resetBlock
  power : ∀ u, P u → P u.powerCycle
  drop : ∀ u, P u → P u.dropWrite
  reject : ∀ u code info, u.seq = .idle → P u → P (u.rejected code info)
  feed : ∀ u v, u.seq = .idle → P u → P (crcFeedIdle v u)
  enter : ∀ u cmd st rest, u.seq = .idle → stagesOf cmd = st :: rest → Admitted st u → P u →
    P (u.clearReport.enter cmd st rest)
  write : ∀ u n p v, u.seq = .idle ∨ p.exempt = true → P u → P (performWrite n p v u)

namespace KeptByEvents

variable {P : State → Prop} (k : KeptByEvents P)
include k

theorem accept {u : State} {cmd : Instr} {st : Stage} {rest : List Stage} (hi : u.seq = .idle)
    (hs : stagesOf cmd = st :: rest) (ha : Admitted st u) (hu : P u) : P (u.clearReport.accept cmd st rest) := by
  have he := k.enter u cmd st rest hi hs ha hu
  unfold State.accept
  split
  · exact k.stages _ _ _ _ _ rfl he
  · exact he

theorem exec {i : Instr} {u m : State} (h : Machine.exec i u = .next m) (hu : P u) : P m := by
  rcases exec_cases i u with ⟨-, e⟩ | ⟨v, -, e⟩ | ⟨-, -, check, st, rest, hs, e, hg, hp, hlg, hlp, -⟩ <;>
    obtain rfl := Host.Outcome.next.inj (h.symm.trans e)
  · exact k.reset u hu
  · by_cases hi : u.seq = .idle
    · simpa [busy_eq_false hi] using k.feed u v hi hu
    · simpa [busy_eq_true hi] using k.drop u hu
  · rcases issue_cases i check u hs with ⟨-, e⟩ | ⟨hi, code, info, -, e⟩ | ⟨hi, hc, e⟩ <;> rw [e]
    · exact k.drop u hu
    · exact k.reject u code info hi hu
    · refine k.accept hi hs ⟨fun h => hg h u.clearReport hc, fun h => hp h u.clearReport hc, fun h => ?_, fun h => ?_⟩ hu
      · exact loadGridCheck_none (s := u.clearReport) (hlg h ▸ hc)
      · exact loadPackCheck_none (s := u.clearReport) (hlp h ▸ hc)

theorem access {u m : State} (h : Access u m) (hu : P u) : P m := by
  cases h with
  | read n a p h =>
    rcases readPlace_cases n.bytes p u with ⟨-, e⟩ | ⟨-, e⟩ <;> rw [e]
    · exact k.read u _ u.draws hu
    · exact k.read u _ _ hu
  | instr i m h => exact k.exec h hu
  | badWord wd =>
    by_cases hi : u.seq = .idle
    · rw [badCommand_idle hi]
      exact k.reject u .badCommand wd hi hu
    · simpa [badCommand, busy_eq_true hi] using k.drop u hu
  | write n a p v h =>
    rcases writePlace_cases n.bytes p v u with ⟨-, -, e⟩ | ⟨hb, e⟩ <;> rw [e]
    · exact k.drop u hu
    · refine k.write u _ p v (hb.imp_left fun hb => ?_) hu
      by_contra hi
      simp [busy_eq_true hi] at hb

/-- A property that every event keeps is kept by every step. -/
theorem step {s t : State} (h : Machine.step s = .next t) (hs : P s) : P t :=
  step_induct h hs k.inputs (fun u cmd st rest left hu e => k.stages u cmd st rest left e hu)
    (fun u cmd st rest left hu e => k.count u cmd st rest left e hu) k.reset k.power
    (fun u hu => k.read u _ u.draws hu) fun _ _ hu ha => k.access ha hu

end KeptByEvents

/-! ## What the small events leave alone -/

theorem crcFeedIdle_eq (v : Word) (s : State) : crcFeedIdle v s = { s with
    err := (crcFeedIdle v s).err
    errInfo := (crcFeedIdle v s).errInfo
    crcErr := (crcFeedIdle v s).crcErr
    crcAcc := (crcFeedIdle v s).crcAcc } := by
  unfold crcFeedIdle
  split
  · rfl
  · split <;> rfl

/-- R106: the two exempt writes change the flags they own. -/
theorem performWrite_exempt {p : Place} (h : p.exempt = true) (n : Nat) (v : Word) (s : State) :
    performWrite n p v s = { s with
      done := (performWrite n p v s).done
      conflict := (performWrite n p v s).conflict
      doneIe := (performWrite n p v s).doneIe } := by
  cases p with
  | csr c =>
    obtain rfl | rfl := of_decide_eq_true h
    · rfl
    · rfl
  | pix i | grid i | pack i | out i => cases h

end Sys2Proof.Machine
end

section
/-! SUPPORT. The CAP_ registers never change (10_state.md R38). -/

namespace Sys2Proof.Machine

/-- The four CAP_ registers. -/
def SameCaps (s t : State) : Prop :=
  t.capPix = s.capPix ∧ t.capGrid = s.capGrid ∧ t.capPack = s.capPack ∧ t.capOut = s.capOut

theorem SameCaps.trans {s t u : State} (a : SameCaps s t) (b : SameCaps t u) : SameCaps s u := by
  obtain ⟨a1, a2, a3, a4⟩ := a
  obtain ⟨b1, b2, b3, b4⟩ := b
  exact ⟨b1.trans a1, b2.trans a2, b3.trans a3, b4.trans a4⟩

theorem SameOutside.caps {s t : State} (h : SameOutside s t) : SameCaps s t := by
  obtain ⟨-, -, -, -, -, -, hp, hg, hk, ho, -⟩ := h
  exact ⟨hp, hg, hk, ho⟩

theorem resetBlock_caps (s : State) : SameCaps s s.resetBlock := by
  rw [State.resetBlock, endCommand_eq]
  exact ⟨rfl, rfl, rfl, rfl⟩

theorem powerCycle_caps (s : State) : SameCaps s s.powerCycle := by
  simp [State.powerCycle, SameCaps]

theorem crcFeedIdle_caps (v : Word) (s : State) : SameCaps s (crcFeedIdle v s) := by
  rw [crcFeedIdle_eq]
  exact ⟨rfl, rfl, rfl, rfl⟩

theorem performWrite_caps (n : Nat) (p : Place) (v : Word) (s : State) : SameCaps s (performWrite n p v s) := by
  cases p with
  | csr c => cases c <;> exact ⟨rfl, rfl, rfl, rfl⟩
  | pix i | grid i | pack i | out i => exact ⟨rfl, rfl, rfl, rfl⟩

theorem sameCaps_kept (s : State) : KeptByEvents (SameCaps s) where
  inputs _ _ h := h
  read _ _ _ h := h
  stages u cmd st rest _ _ h := h.trans (runStages_outside cmd st rest u).caps
  count _ _ _ _ _ _ h := h
  reset u h := h.trans (resetBlock_caps u)
  power u h := h.trans (powerCycle_caps u)
  drop _ h := h
  reject _ _ _ _ h := h
  feed u v _ h := h.trans (crcFeedIdle_caps v u)
  enter u cmd st rest _ _ _ h := by
    have hu : SameCaps s u.clearReport := h
    exact hu.trans (enter_outside cmd st rest u.clearReport).caps
  write u n p v _ h := h.trans (performWrite_caps n p v u)

/-- Settles O59: every event keeps the CAP_ registers of the state before the step. -/
theorem stepKeepsTheCapacities : Obligations.StepKeepsTheCapacities :=
  fun s _ h => (sameCaps_kept s).step h ⟨rfl, rfl, rfl, rfl⟩

end Sys2Proof.Machine
end

section
/-! SUPPORT. The running stages are the last ones of their command (40_control.md R108, R111). -/

namespace Sys2Proof.Machine

/-- R108, R110: `st'` may follow `st` in a command; the earlier one makes the operand of the later. -/
def Follows (st st' : Stage) : Prop :=
  (st = .thresh ∧ st'.toPack = true) ∨ (st.toPack = true ∧ st'.toOut = true)

theorem stagesOf_chain (cmd : Instr) : (stagesOf cmd).IsChain Follows := by
  cases cmd <;> simp [stagesOf, Follows, Stage.toPack, Stage.toOut]

theorem suffix_follows {cmd : Instr} {st st' : Stage} {rest : List Stage}
    (h : (st :: st' :: rest) <:+ stagesOf cmd) : Follows st st' :=
  (List.isChain_cons_cons.mp ((stagesOf_chain cmd).suffix h)).1

theorem seqOk_idle {s : State} (h : s.seq = .idle) : s.seqOk = true := by
  simp [State.seqOk, h]

theorem seqOk_run {s : State} {cmd : Instr} {st : Stage} {rest : List Stage} {left : Nat}
    (h : s.seq = .run cmd st rest left) : s.seqOk = true ↔
      (st :: rest) <:+ stagesOf cmd ∧ (st.toPack = true → s.gridValid = true) ∧
        (st.toOut = true → s.packValid = true) := by
  simp [State.seqOk, h, and_assoc, ← Bool.not_eq_true, ← imp_iff_not_or]

theorem threshStage_ok {s s1 : State} (h : threshStage s = .ok s1) : s1.gridValid = true := by
  by_cases hf : s.window.w * s.window.h ≤ s.capGrid.toNat
  · rw [threshStage_fits hf] at h; cases h; rfl
  · rw [threshStage_overflow (Nat.lt_of_not_le hf)] at h; cases h

theorem packStage_ok {o : Orient} {s s1 : State} (h : packStage o s = .ok s1) : s1.packValid = true := by
  unfold packStage abortPack at h
  simp only at h
  split at h
  · cases h
  · cases h; rfl

/-- R111: a stage that succeeds has made the operand of the one that follows it. -/
theorem runStage_makes_operand {st st' : Stage} {s s1 : State} (hf : Follows st st') (h : runStage st s = .ok s1) :
    (st'.toPack = true → s1.gridValid = true) ∧ (st'.toOut = true → s1.packValid = true) := by
  rcases hf with ⟨rfl, hp⟩ | ⟨hp, ho⟩
  · refine ⟨fun _ => threshStage_ok h, fun ho => ?_⟩
    cases st' <;> simp_all [Stage.toPack, Stage.toOut]
  · cases st <;> simp only [Stage.toPack, Bool.false_eq_true] at hp
    refine ⟨fun hp' => ?_, fun _ => packStage_ok h⟩
    cases st' <;> simp_all [Stage.toPack, Stage.toOut]

theorem seqOk_enter {s : State} {cmd : Instr} {st : Stage} {rest : List Stage} (hs : (st :: rest) <:+ stagesOf cmd)
    (hg : st.toPack = true → s.gridValid = true) (hp : st.toOut = true → s.packValid = true) :
    (s.enter cmd st rest).seqOk = true := by
  rw [enter_eq]
  exact (seqOk_run rfl).mpr ⟨hs, hg, hp⟩

theorem seqOk_runStages {cmd : Instr} {st : Stage} {rest : List Stage} (hs : (st :: rest) <:+ stagesOf cmd)
    (s : State) : (runStages cmd st rest s).seqOk = true := by
  have hnext : ∀ st st' r u u1, (st :: st' :: r) <:+ stagesOf cmd → runStage st u = .ok u1 →
      (st' :: r) <:+ stagesOf cmd ∧ (u1.enter cmd st' r).seqOk = true := by
    intro st st' r u u1 h hr
    have hs' := (List.suffix_cons st (st' :: r)).trans h
    obtain ⟨hg, hp⟩ := runStage_makes_operand (suffix_follows h) hr
    exact ⟨hs', seqOk_enter hs' hg hp⟩
  refine runStages_induct (P := fun st r _ => (st :: r) <:+ stagesOf cmd) (Q := fun t => t.seqOk = true)
    ?_ ?_ ?_ ?_ rest st s hs
  · intro _ _ _ _ _ _ _ _; exact seqOk_idle rfl
  · intro _ _ _ _ _; exact seqOk_idle rfl
  · intro _ _ _ _ _ h hr; exact (hnext _ _ _ _ _ h hr).2
  · intro _ _ _ _ _ h hr; exact (hnext _ _ _ _ _ h hr).1

theorem seqOk_kept : KeptByEvents (fun s => s.seqOk = true) where
  inputs _ _ h := h
  read _ _ _ h := h
  stages u _ _ _ _ e h := seqOk_runStages ((seqOk_run e).mp h).1 u
  count _ _ _ _ _ e h := (seqOk_run rfl).mpr ((seqOk_run e).mp h)
  reset _ _ := rfl
  power _ _ := rfl
  drop _ h := h
  reject _ _ _ _ h := h
  feed u v e _ := seqOk_idle (by rw [crcFeedIdle_eq]; exact e)
  enter _ _ _ _ _ hs ha _ := seqOk_enter (hs ▸ List.suffix_refl _) ha.grid ha.pack
  write u n p v hp h := by
    rcases hp with hi | hp
    · obtain ⟨hseq, -⟩ := performWrite_frame n p v u
      exact seqOk_idle (hseq.trans hi)
    · rw [performWrite_exempt hp]
      exact h

/-- Settles O58: an acceptance check, or the stage before, has made sure of the operand of every PACK and ENC stage. -/
theorem stepKeepsTheSequencerLegal : Obligations.StepKeepsTheSequencerLegal :=
  fun _ _ hs h => seqOk_kept.step h hs

end Sys2Proof.Machine
end

section
/-! SUPPORT. What the valid bits promise of the descriptors (10_state.md R36). -/

namespace Sys2Proof.Machine

/-- R36: what each valid bit promises, on its own. -/
structure Honest (s : State) : Prop where
  grid : s.gridValid = true → s.gridFits = true
  pack : s.packValid = true → s.packFits = true
  out : s.outValid = true → s.outLen.toNat ≤ s.capOut.toNat

/-- A promise that two bits make is one that each of them makes. -/
theorem promise_iff (a b c : Bool) :
    (!(a || b) || c) = true ↔ (a = true → c = true) ∧ (b = true → c = true) := by
  cases a <;> cases b <;> simp

theorem validOk_iff (s : State) : s.validOk = true ↔
    Honest s ∧ (s.running .loadGrid = true → s.gridFits = true) ∧ (s.running .loadPack = true → s.packFits = true) := by
  have hout : (!s.outValid || decide (s.outLen.toNat ≤ s.capOut.toNat)) = true ↔
      (s.outValid = true → s.outLen.toNat ≤ s.capOut.toNat) := by
    cases s.outValid <;> simp
  simp only [State.validOk, Bool.and_eq_true, promise_iff, hout]
  constructor
  · rintro ⟨⟨⟨hg, hg'⟩, hp, hp'⟩, ho⟩
    exact ⟨⟨hg, hp, ho⟩, hg', hp'⟩
  · rintro ⟨⟨hg, hp, ho⟩, hg', hp'⟩
    exact ⟨⟨⟨hg, hg'⟩, hp, hp'⟩, ho⟩

theorem running_run {s : State} {cmd : Instr} {st : Stage} {rest : List Stage} {left : Nat}
    (h : s.seq = .run cmd st rest left) (st' : Stage) : s.running st' = decide (st = st') := by
  simp [State.running, h]

theorem validOk_of_idle {s : State} (h : s.seq = .idle) : s.validOk = true ↔ Honest s := by
  simp [validOk_iff, State.running, h]

/-- R109: a register that takes a number below 2^32 holds it. -/
theorem toNat_ofNat_word {n : Nat} (h : n < 2 ^ 32) : (BitVec.ofNat 32 n).toNat = n :=
  (BitVec.toNat_ofNat ..).trans (Nat.mod_eq_of_lt h)

theorem ceil8_lt {n : Nat} (h : n < 2 ^ 32) : ceil8 n < 2 ^ 32 := by
  unfold ceil8
  omega

theorem outDims_lt (o : Orient) (w h : Word) :
    (outDims o w.toNat h.toNat).1 < 2 ^ 32 ∧ (outDims o w.toNat h.toNat).2 < 2 ^ 32 := by
  cases o <;> exact ⟨BitVec.isLt _, BitVec.isLt _⟩

theorem honest_threshStage {s : State} (h : Honest s) : Honest (threshStage s).state := by
  obtain ⟨hg, hp, ho⟩ := h
  by_cases hf : s.window.w * s.window.h ≤ s.capGrid.toNat
  · rw [threshStage_fits hf]
    refine ⟨fun _ => decide_eq_true ?_, hp, ho⟩
    simp only [StageEnd.state, toNat_ofNat_word (window_w_lt s), toNat_ofNat_word (window_h_lt s)]
    exact hf
  · rw [threshStage_overflow (Nat.lt_of_not_le hf)]
    exact ⟨nofun, hp, ho⟩

theorem honest_packStage {s : State} (o : Orient) (h : Honest s) : Honest (packStage o s).state := by
  obtain ⟨hg, hp, ho⟩ := h
  obtain ⟨hw', hh'⟩ := outDims_lt o s.gridW s.gridH
  by_cases hf : ceil8 (outDims o s.gridW.toNat s.gridH.toNat).1 * (outDims o s.gridW.toNat s.gridH.toNat).2
      ≤ s.capPack.toNat
  · rw [packStage_fits hf]
    refine ⟨hg, fun _ => decide_eq_true ?_, ho⟩
    simp only [StageEnd.state, toNat_ofNat_word hw', toNat_ofNat_word hh', toNat_ofNat_word (ceil8_lt hw'),
      toNat_ofNat_word (Nat.lt_of_le_of_lt hf s.capPack.isLt)]
    exact ⟨trivial, trivial, hf⟩
  · rw [packStage_overflow (Nat.lt_of_not_le hf)]
    exact ⟨hg, nofun, ho⟩

theorem honest_writePayload {s : State} (p : List Byte) (h : Honest s) : Honest (writePayload p s).state := by
  obtain ⟨hg, hp, ho⟩ := h
  by_cases hf : p.length ≤ s.capOut.toNat
  · rw [writePayload_fits hf]
    refine ⟨hg, hp, fun _ => ?_⟩
    simp only [StageEnd.state, toNat_ofNat_word (Nat.lt_of_le_of_lt hf s.capOut.isLt)]
    exact hf
  · rw [writePayload_overflow (Nat.lt_of_not_le hf)]
    exact ⟨hg, hp, nofun⟩

theorem honest_z64Finish {s : State} (r : Option (List Byte)) (h : Honest s) : Honest (z64Finish r s).state := by
  cases r with
  | none => exact ⟨h.grid, h.pack, nofun⟩
  | some d =>
    have hw := honest_writePayload (z64Payload (base64 d)) h
    unfold z64Finish
    simp only
    cases hp : writePayload (z64Payload (base64 d)) s with
    | ok s1 => rw [hp] at hw; exact ⟨hw.grid, hw.pack, hw.out⟩
    | abort code info s1 => rw [hp] at hw; exact hw

/-- R36: a stage sets a valid bit only over descriptors that it has written, or that LOAD has checked, to fit. -/
theorem honest_runStage {st : Stage} {s : State} (h : Honest s) (hg : st = .loadGrid → s.gridFits = true)
    (hp : st = .loadPack → s.packFits = true) : Honest (runStage st s).state := by
  match st with
  | .crcInit => exact ⟨h.grid, h.pack, h.out⟩
  | .loadGrid => exact ⟨fun _ => hg rfl, h.pack, h.out⟩
  | .loadPack => exact ⟨h.grid, fun _ => hp rfl, h.out⟩
  | .thresh => exact honest_threshStage h
  | .pack o => exact honest_packStage o h
  | .enc .z64 => exact honest_z64Finish _ h
  | .enc .acs => exact honest_writePayload _ h

/-- Entering a stage keeps the promises; entering LOAD.GRID or LOAD.PACK makes one more. -/
theorem validOk_enter {s : State} {cmd : Instr} {st : Stage} {rest : List Stage} (h : Honest s)
    (hg : st = .loadGrid → s.gridFits = true) (hp : st = .loadPack → s.packFits = true) :
    (s.enter cmd st rest).validOk = true := by
  rw [enter_eq, validOk_iff, running_run rfl, running_run rfl, decide_eq_true_eq, decide_eq_true_eq]
  exact ⟨⟨h.grid, h.pack, h.out⟩, hg, hp⟩

/-- R108: LOAD.GRID and LOAD.PACK follow no stage. -/
theorem Follows.not_load {st st' : Stage} (h : Follows st st') : st' ≠ .loadGrid ∧ st' ≠ .loadPack := by
  rcases h with ⟨-, h⟩ | ⟨-, h⟩ <;> constructor <;> rintro rfl <;> cases h

theorem validOk_runStages {cmd : Instr} {st : Stage} {rest : List Stage} {left : Nat} {s : State}
    (e : s.seq = .run cmd st rest left) (hs : (st :: rest) <:+ stagesOf cmd) (h : s.validOk = true) :
    (runStages cmd st rest s).validOk = true := by
  have hend : ∀ st r u e, (∃ left, u.seq = .run cmd st r left) → u.validOk = true → runStage st u = e →
      Honest e.state := by
    rintro st r u _ ⟨left, e⟩ h rfl
    obtain ⟨hh, hg, hp⟩ := (validOk_iff u).mp h
    simp only [running_run e, decide_eq_true_eq] at hg hp
    exact honest_runStage hh hg hp
  have hnext : ∀ st st' r u u1, (st :: st' :: r) <:+ stagesOf cmd ∧
      (∃ left, u.seq = .run cmd st (st' :: r) left) ∧ u.validOk = true → runStage st u = .ok u1 →
      (u1.enter cmd st' r).validOk = true := by
    rintro st st' r u u1 ⟨hs, hrun, h⟩ hr
    obtain ⟨hg, hp⟩ := (suffix_follows hs).not_load
    exact validOk_enter (hend _ _ _ _ hrun h hr) (fun e => absurd e hg) fun e => absurd e hp
  refine runStages_induct
    (P := fun st r u => (st :: r) <:+ stagesOf cmd ∧ (∃ left, u.seq = .run cmd st r left) ∧ u.validOk = true)
    (Q := fun t => t.validOk = true) ?_ ?_ ?_ ?_ rest st s ⟨hs, ⟨left, e⟩, h⟩
  · rintro st r u code info u1 ⟨-, hrun, h⟩ hr
    obtain ⟨hg, hp, ho⟩ := hend _ _ _ _ hrun h hr
    exact (validOk_of_idle rfl).mpr ⟨hg, hp, ho⟩
  · rintro st u u1 ⟨-, hrun, h⟩ hr
    obtain ⟨hg, hp, ho⟩ := hend _ _ _ _ hrun h hr
    exact (validOk_of_idle rfl).mpr ⟨hg, hp, ho⟩
  · intro st st' r u u1 h hr
    exact hnext _ _ _ _ _ h hr
  · intro st st' r u u1 h hr
    exact ⟨(List.suffix_cons _ _).trans h.1, ⟨_, rfl⟩, hnext _ _ _ _ _ h hr⟩

/-- R36: a host write to a buffer or to one of its descriptors clears the valid bit. -/
theorem honest_performWrite {s : State} (h : Honest s) (n : Nat) (p : Place) (v : Word) :
    Honest (performWrite n p v s) := by
  obtain ⟨hg, hp, ho⟩ := h
  match p with
  | .csr .gridW | .csr .gridH | .grid _ => exact ⟨nofun, hp, ho⟩
  | .csr .pkLen | .csr .pkRowlen | .csr .pkW | .csr .pkH | .pack _ => exact ⟨hg, nofun, ho⟩
  | .csr .cmd | .csr .status | .csr .err | .csr .errInfo | .csr .irqEn | .csr .width | .csr .pixLen | .csr .cfg
  | .csr .outLen | .csr .crcData | .csr .crcVal | .csr .crcHex | .csr .capPix | .csr .capGrid | .csr .capPack
  | .csr .capOut | .pix _ | .out _ => exact ⟨hg, hp, ho⟩

theorem validOk_kept : KeptByEvents (fun s => s.seqOk = true ∧ s.validOk = true) where
  inputs _ _ h := h
  read _ _ _ h := h
  stages u _ _ _ _ e h := ⟨seqOk_kept.stages u _ _ _ _ e h.1, validOk_runStages e ((seqOk_run e).mp h.1).1 h.2⟩
  count u cmd st rest left e h := by
    refine ⟨seqOk_kept.count u cmd st rest left e h.1, ?_⟩
    have hv := (validOk_iff u).mp h.2
    rw [running_run e, running_run e] at hv
    obtain ⟨⟨hg, hp, ho⟩, hload⟩ := hv
    exact (validOk_iff _).mpr ⟨⟨hg, hp, ho⟩, hload⟩
  reset _ _ := ⟨rfl, rfl⟩
  power _ _ := ⟨rfl, rfl⟩
  drop _ h := h
  reject _ _ _ _ h := h
  feed u v e h := by
    refine ⟨seqOk_kept.feed u v e h.1, ?_⟩
    rw [crcFeedIdle_eq]
    exact h.2
  enter u cmd st rest e hs ha h := by
    obtain ⟨hg, hp, ho⟩ := (validOk_of_idle e).mp h.2
    exact ⟨seqOk_kept.enter u cmd st rest e hs ha h.1,
      validOk_enter (s := u.clearReport) ⟨hg, hp, ho⟩ ha.gridFits ha.packFits⟩
  write u n p v hp h := by
    refine ⟨seqOk_kept.write u n p v hp h.1, ?_⟩
    rcases hp with hi | hp
    · obtain ⟨hseq, -⟩ := performWrite_frame n p v u
      exact (validOk_of_idle (hseq.trans hi)).mpr (honest_performWrite ((validOk_of_idle hi).mp h.2) n p v)
    · rw [performWrite_exempt hp]
      exact h.2

/-- Settles O56, together with the sequencer's invariant: a stage sets a valid bit only over descriptors that fit, and
every host write that could break the promise clears the bit. -/
theorem stepKeepsValidBitsHonest : Obligations.StepKeepsValidBitsHonest :=
  fun _ _ hs hv h => (validOk_kept.step h ⟨hs, hv⟩).2

end Sys2Proof.Machine
end

section
/-! SUPPORT. Host accesses to an idle block: what a store writes, what a load reads, and what both leave alone
(20_memory.md R60 to R66, 10_state.md R36). -/

namespace Sys2Proof.Machine

theorem width_bytes_le (n : Width) : n.bytes ≤ 4 := by cases n <;> decide

/-! ## Stores -/

/-- R60: the address map reads the CAP_ registers alone. -/
theorem place_of_sameCaps {s t : State} (h : SameCaps s t) (n : Width) (a : Word) : place t n a = place s n a := by
  obtain ⟨hp, hg, hk, ho⟩ := h
  simp only [place, bufferPlace, hp, hg, hk, ho]

/-- R36: a store to a buffer is a plain write. -/
theorem storeKind_buffer {s : State} {n : Width} {a : Word} {p : Place} {i : Nat} (h : place s n a = .ok p)
    (hp : p = .pix i ∨ p = .grid i ∨ p = .pack i) (v : Word) : storeKind s n a v = .ok (.plain p) := by
  rcases hp with rfl | rfl | rfl <;> simp [storeKind, h]

/-- R66: a store to a CSR that is no command port is a plain write. -/
theorem storeKind_csr (s : State) {c : Csr} (h : c ≠ .cmd) (h' : c ≠ .crcData) (v : Word) :
    storeKind s .word c.offset v = .ok (.plain (.csr c)) := by
  cases c <;> simp_all [storeKind, place_offset]

theorem writePlace_idle {s : State} (h : s.seq = .idle) (n : Nat) (p : Place) (v : Word) :
    writePlace n p v s = performWrite n p v s := by
  simp [writePlace, busy_eq_false h]

theorem stepStore_plain {s : State} (h : s.seq = .idle) {n : Width} {a v : Word} {p : Place}
    (hk : storeKind s n a v = .ok (.plain p)) : stepStore n a v s = .next (performWrite n.bytes p v s) := by
  simp [stepStore, hk, writePlace_idle h]

/-- R36: a store to a buffer changes memory and the buffer's valid bit. -/
theorem performWrite_buffer {p : Place} {i : Nat} (hp : p = .pix i ∨ p = .grid i ∨ p = .pack i) (n : Nat) (v : Word)
    (s : State) : performWrite n p v s = { s with
      mem := (performWrite n p v s).mem
      gridValid := s.gridValid && decide (p ≠ .grid i)
      packValid := s.packValid && decide (p ≠ .pack i) } := by
  rcases hp with rfl | rfl | rfl <;> simp [performWrite, State.setPix, State.setGrid, State.setPack]

theorem performWrite_pix_other {p : Place} {n i k : Nat} (v : Word) (s : State)
    (h : p = .pix i → k < i ∨ i + n ≤ k) (hp : p = .pix i ∨ p = .grid i ∨ p = .pack i) :
    (performWrite n p v s).mem.pix.read k = s.mem.pix.read k := by
  rcases hp with rfl | rfl | rfl
  · exact ByteBuf.read_writeAll_other (by simpa using h rfl) _
  · rfl
  · rfl

theorem performWrite_grid_other {p : Place} {n i k : Nat} (v : Word) (s : State)
    (h : p = .grid i → k < 8 * i ∨ 8 * (i + n) ≤ k) (hp : p = .pix i ∨ p = .grid i ∨ p = .pack i) :
    (performWrite n p v s).mem.grid.read k = s.mem.grid.read k := by
  rcases hp with rfl | rfl | rfl
  · rfl
  · exact BitBuf.read_writeBytes_other (by simpa using h rfl) _
  · rfl

theorem performWrite_pack_other {p : Place} {n i k : Nat} (v : Word) (s : State)
    (h : p = .pack i → k < i ∨ i + n ≤ k) (hp : p = .pix i ∨ p = .grid i ∨ p = .pack i) :
    (performWrite n p v s).mem.pack.read k = s.mem.pack.read k := by
  rcases hp with rfl | rfl | rfl
  · rfl
  · rfl
  · exact ByteBuf.read_writeAll_other (by simpa using h rfl) _

/-- R41, R62: a cell of GRID after a host write that covers it. -/
theorem BitBuf.read_writeBytes (g : BitBuf) {n i k j : Nat} (v : Word) (hk : k < n) (hj : j < 8) :
    (g.writeBytes i (bytesOf n v)).read (8 * (i + k) + j) = v.getLsbD (8 * k + (7 - j)) := by
  rw [BitBuf.writeBytes, BitBuf.read_writeAll, if_pos (by omega),
    show 8 * (i + k) + j - 8 * i = k * 8 + j by omega, flatMap_bits_getElem? n v hk hj, Option.getD_some, byteOf,
    BitVec.getLsbD_extractLsb']
  simp [show 7 - j < 8 by omega]

/-- R62: the bytes of a place after a store to it are those of the data. -/
theorem placeBytes_performWrite {p : Place} {i : Nat} (hp : p = .pix i ∨ p = .grid i ∨ p = .pack i) (n : Nat)
    (v : Word) (s : State) : (performWrite n p v s).placeBytes n p = bytesOf n v := by
  rcases hp with rfl | rfl | rfl <;>
    refine List.map_congr_left fun k hk => ?_ <;> rw [List.mem_range] at hk
  · exact ByteBuf.read_writeBytes _ v hk
  · exact BitBuf.readByte_writeBytes _ v hk
  · exact ByteBuf.read_writeBytes _ v hk

/-! ## Loads -/

theorem stepLoad_idle {s : State} (h : s.seq = .idle) {n : Width} {a : Word} {p : Place} (hp : place s n a = .ok p) :
    stepLoad n a s = .next { s with rdata := ofBytes (s.placeBytes n.bytes p) } := by
  simp [stepLoad, hp, readPlace, placeOpen_idle h]

/-- R23: a word load of a CSR on an idle block gives its register. -/
theorem stepLoad_csr {s : State} (h : s.seq = .idle) (c : Csr) :
    stepLoad .word c.offset s = .next { s with rdata := s.readCsr c } := by
  rw [stepLoad_idle h (place_offset s c)]
  simp [State.placeBytes, Width.bytes]

/-- R62: the number that the `n` low bytes of a word make. -/
theorem toNat_ofBytes_bytesOf {n : Nat} (hn : n ≤ 4) (v : Word) :
    (ofBytes (bytesOf n v)).toNat = v.toNat % 2 ^ (8 * n) := by
  have hlt : 2 ^ (8 * n) - 1 < 2 ^ 32 := by
    have := Nat.pow_le_pow_right (n := 2) (by omega) (show 8 * n ≤ 32 by omega)
    have := Nat.two_pow_pos (8 * n)
    omega
  rw [ofBytes_bytesOf hn, BitVec.toNat_and, toNat_ofNat_word hlt, Nat.and_two_pow_sub_one_eq_mod]

/-- R62, R63: bytes put together are the value that a host load of them gives. -/
theorem loadValue_ofBytes {n : Nat} (hn : n ≤ 4) {f : Nat → Byte} {bit : Nat → Nat → Bool}
    (h : ∀ k j, j < 8 → (f k).getLsbD j = bit k j) : loadValue n bit (ofBytes ((List.range n).map f)) := by
  constructor
  · intro k j hk hj
    rw [getLsbD_ofBytes _ (by simpa using hn), show (8 * k + j) / 8 = k by omega, show (8 * k + j) % 8 = j by omega]
    simp [hk, h k j hj]
  · intro m hm
    have : n ≤ m / 8 := by omega
    rw [getLsbD_ofBytes _ (by simpa using hn)]
    simp [this]

theorem hostReads_placeBytes {s : State} {n : Width} {a : Word} {p : Place} (hp : place s n a = .ok p) :
    s.hostReads n.bytes p (ofBytes (s.placeBytes n.bytes p)) := by
  cases p with
  | csr c =>
    obtain ⟨-, rfl⟩ := place_csr hp
    exact ofBytes_bytesOf_word _
  | pix i => exact loadValue_ofBytes (width_bytes_le n) fun _ _ _ => rfl
  | grid i => exact loadValue_ofBytes (width_bytes_le n) fun k _ hj => BitBuf.getLsbD_readByte _ (i + k) hj
  | pack i => exact loadValue_ofBytes (width_bytes_le n) fun _ _ _ => rfl
  | out i => exact loadValue_ofBytes (width_bytes_le n) fun _ _ _ => rfl

/-- Settles O50: the store is a plain write of the bytes of the data, the load after it finds the same place, and a
load of an idle block gives the current bytes. -/
theorem loadReadsWhatTheStoreWrote : Obligations.LoadReadsWhatTheStoreWrote := by
  refine ⟨?_, ?_, ?_⟩
  · intro s n a v p i hi hpl hp
    obtain ⟨hseq, -, -, -, -, -, -, -, -, hout⟩ := performWrite_frame n.bytes p v s
    have hpl' := (place_of_sameCaps (performWrite_caps n.bytes p v s) n a).trans hpl
    refine ⟨_, _, stepStore_plain hi (storeKind_buffer hpl hp v), stepLoad_idle (hseq.trans hi) hpl', ?_, rfl,
      performWrite_buffer hp n.bytes v s, fun k hk => performWrite_pix_other v s hk hp,
      fun k hk => performWrite_grid_other v s hk hp, fun k hk => performWrite_pack_other v s hk hp, hout, ?_⟩
    · rw [placeBytes_performWrite hp]
      exact toNat_ofBytes_bytesOf (width_bytes_le n) v
    · intro k hk
      refine ⟨?_, ?_, ?_⟩ <;> rintro rfl
      · exact ByteBuf.read_writeBytes _ v hk
      · exact fun j hj => BitBuf.read_writeBytes _ v hk hj
      · exact ByteBuf.read_writeBytes _ v hk
  · intro s n a p hi hp
    exact ⟨_, stepLoad_idle hi hp, hostReads_placeBytes hp⟩
  · intro s c hi
    rw [stepLoad_csr hi]
    cases c with
    | err => cases he : s.err <;> simp [State.readCsr, ErrCode.code, he]
    | _ => rfl

/-! ## The registers after a store -/

/-- R36: a plain write clears GRID_VALID exactly if it goes to GRID or one of its descriptors. -/
theorem performWrite_gridValid (n : Nat) (p : Place) (v : Word) (s : State) :
    (performWrite n p v s).gridValid = true ↔
      s.gridValid = true ∧ ¬ (p = .csr .gridW ∨ p = .csr .gridH ∨ ∃ i, p = .grid i) := by
  cases p with
  | csr c => cases c <;> simp [performWrite, State.writeCsr]
  | pix i | grid i | pack i | out i => simp [performWrite]

/-- R36: the same for PACK_VALID and PACK. -/
theorem performWrite_packValid (n : Nat) (p : Place) (v : Word) (s : State) :
    (performWrite n p v s).packValid = true ↔
      s.packValid = true ∧
        ¬ (p = .csr .pkLen ∨ p = .csr .pkRowlen ∨ p = .csr .pkW ∨ p = .csr .pkH ∨ ∃ i, p = .pack i) := by
  cases p with
  | csr c => cases c <;> simp [performWrite, State.writeCsr]
  | pix i | grid i | pack i | out i => simp [performWrite]

/-- R36: no plain write touches OUT_VALID. -/
theorem performWrite_outValid (n : Nat) (p : Place) (v : Word) (s : State) :
    (performWrite n p v s).outValid = s.outValid := by
  cases p with
  | csr c => cases c <;> rfl
  | pix i | grid i | pack i | out i => rfl

/-- Settles O51: on an idle block a store to a CSR that is no command port is a plain write of the word. -/
theorem hostWritesInvalidate : Obligations.HostWritesInvalidate := by
  constructor
  · intro s n p v hi
    simp only [writePlace_idle hi]
    exact ⟨performWrite_gridValid n p v s, performWrite_packValid n p v s, performWrite_outValid n p v s⟩
  · intro s c v hi hcmd hdata
    simp only [writePlace_idle hi, stepStore_plain hi (storeKind_csr s hcmd hdata v)]
    cases c with
    | cmd => exact absurd rfl hcmd
    | crcData => exact absurd rfl hdata
    | _ => exact ⟨rfl, rfl⟩

end Sys2Proof.Machine
end

section
/-! SUPPORT. What the views show: STATUS, CFG and CRC_HEX, after a reset as well (10_state.md R24, R27, R37, R280). -/

namespace Sys2Proof.Machine

/-! ## STATUS (R24) -/

theorem getLsbD_flagAt {k : Nat} (hk : k < 32) (b : Bool) (m : Nat) :
    (flagAt k b).getLsbD m = (decide (m = k) && b) := by
  cases b with
  | false => simp [flagAt]
  | true =>
    simp only [flagAt, if_true, BitVec.getLsbD_shiftLeft, BitVec.getLsbD_one, Bool.and_true]
    grind

theorem busy_eq_decide (s : State) : s.busy = decide (s.seq ≠ .idle) := by
  rw [Bool.eq_iff_iff, busy_iff, decide_eq_true_eq]

theorem errFlag_eq_decide (s : State) : s.errFlag = decide (s.err ≠ .none) := by
  cases he : s.err <;> simp [State.errFlag, ErrCode.code, he]

/-- R24: STATUS, bit by bit. -/
theorem getLsbD_statusWord (s : State) (k : Nat) : s.statusWord.getLsbD k =
    ((decide (k = 0) && s.busy) || (decide (k = 1) && s.done) || (decide (k = 2) && s.errFlag) ||
      (decide (k = 3) && s.empty) || (decide (k = 4) && s.conflict) || (decide (k = 5) && s.crcErr) ||
      (decide (k = 8) && s.gridValid) || (decide (k = 9) && s.packValid) || (decide (k = 10) && s.outValid)) := by
  simp [State.statusWord, getLsbD_flagAt]

/-- Settles O52: each flag stands at its own bit. -/
theorem statusBits : Obligations.StatusBits := by
  intro s k
  show s.statusWord.getLsbD k = _
  rw [getLsbD_statusWord, busy_eq_decide, errFlag_eq_decide]
  split <;> simp_all

/-! ## CFG (R27) -/

theorem getLsbD_cfgWord (s : State) (k : Nat) :
    s.cfgWord.getLsbD k = ((decide (k < 7) && s.black.getLsbD k) || (decide (k = 8) && s.notrim)) := by
  rw [State.cfgWord, BitVec.getLsbD_or, getLsbD_flagAt (by decide), BitVec.zeroExtend,
    BitVec.getLsbD_setWidth]
  by_cases hk : k < 7
  · simp [hk, show k < 32 by omega]
  · simp [hk, BitVec.getLsbD_of_ge _ k (Nat.le_of_not_lt hk)]

/-- R27: the mask selects bits 6 to 0 and bit 8. -/
theorem getLsbD_cfgMask {k : Nat} (hk : k < 32) :
    (0x17F#32).getLsbD k = (decide (k < 7) || decide (k = 8)) := by
  have hall : ∀ k : Fin 32, (0x17F#32).getLsbD k.val = (decide (k.val < 7) || decide (k.val = 8)) := by decide
  exact hall ⟨k, hk⟩

/-- Settles O53: BLACK and NOTRIM are the bits of the word that the mask selects. -/
theorem cfgKeepsItsFields : Obligations.CfgKeepsItsFields := by
  refine fun s v => ⟨?_, rfl⟩
  show (s.writeCfg v).cfgWord = v &&& 0x17F#32
  apply BitVec.eq_of_getLsbD_eq
  intro k hk
  rw [getLsbD_cfgWord, BitVec.getLsbD_and, getLsbD_cfgMask hk, writeCfg_black, writeCfg_notrim,
    BitVec.getLsbD_extractLsb']
  rcases Nat.lt_trichotomy k 7 with h | rfl | h
  · simp [h, show k ≠ 8 by omega]
  · simp
  · by_cases h8 : k = 8
    · simp [h8]
    · simp [h8, show ¬ k < 7 by omega]

/-! ## CRC_HEX (R37) -/

/-- R46: a lowercase digit as a number. -/
theorem toNat_hexDigit {n : Nat} (h : n < 16) :
    (hexDigit n).toNat = if n < 10 then 0x30 + n else 0x61 + (n - 10) := by
  interval_cases n <;> rfl

/-- R133: digit `k` of hex4, the most significant first. -/
theorem getD_hex4 (v : Word16) {k : Nat} (hk : k < 4) :
    (hex4 v).getD k 0 = hexDigit (v.toNat / 16 ^ (3 - k) % 16) := by
  have hv := v.isLt
  interval_cases k <;> simp [hex4, hex2, Nat.shiftRight_eq_div_pow] <;> congr 1 <;> omega

/-- R62: byte `k` of at most four bytes put together. -/
theorem byteOf_ofBytes {l : List Byte} (hl : l.length ≤ 4) {k : Nat} :
    byteOf (ofBytes l) k = l.getD k 0 := by
  apply BitVec.eq_of_getLsbD_eq
  intro j hj
  rw [byteOf, BitVec.getLsbD_extractLsb', getLsbD_ofBytes l hl, show (8 * k + j) / 8 = k by omega,
    show (8 * k + j) % 8 = j by omega]
  simp [hj]

theorem toNat_byteOf (v : Word) (k : Nat) : (byteOf v k).toNat = v.toNat / 256 ^ k % 256 := by
  rw [byteOf, BitVec.extractLsb'_toNat, Nat.shiftRight_eq_div_pow, pow_mul]
  norm_num

/-- Settles O10: byte `k` of CRC_HEX is digit `k` of hex4. -/
theorem crcHexHoldsTheDigits : Obligations.CrcHexHoldsTheDigits := by
  refine ⟨fun s k hk => ?_, fun _ _ => rfl, by decide⟩
  show s.crcHexWord.toNat / 256 ^ k % 256 = _
  rw [← toNat_byteOf, State.crcHexWord, byteOf_ofBytes (by simp [hex4, hex2]), getD_hex4 _ hk]
  exact toNat_hexDigit (Nat.mod_lt _ (by decide))

/-! ## Reset (R280, R281) -/

theorem statusWord_resetRegs (s : State) : s.resetRegs.statusWord = 0 := by
  simp [State.statusWord, State.busy, State.errFlag, ErrCode.code, flagAt]

theorem cfgWord_resetRegs (s : State) : s.resetRegs.cfgWord = 0x32 := by
  rw [State.cfgWord, resetRegs_black, resetRegs_notrim]
  decide

theorem crcHexWord_resetRegs (s : State) : s.resetRegs.crcHexWord = 0x30303030 := by
  rw [State.crcHexWord, resetRegs_crcAcc]
  decide

/-- R280: the CSRs whose reset value is 0. -/
theorem readCsr_resetRegs (s : State) (c : Csr) (hc : c ∉ [Csr.cfg, .crcHex, .capPix, .capGrid, .capPack, .capOut]) :
    s.resetRegs.readCsr c = 0 := by
  cases c with
  | cfg | crcHex | capPix | capGrid | capPack | capOut => simp at hc
  | status => exact statusWord_resetRegs s
  | _ => rfl

theorem step_hwReset {s : State} {rest : List Input} (h : s.inputs = .hwReset :: rest) :
    step s = .next { s with inputs := rest }.resetBlock := by
  simp [step, h]

theorem step_powerOn {s : State} {rest : List Input} (h : s.inputs = .powerOn :: rest) :
    step s = .next { s with inputs := rest }.powerCycle := by
  simp [step, h]

/-- R281: every reset ends in the reset of the registers, and keeps the CAP_ registers. -/
theorem reset_cases {s t : State} {rest : List Input}
    (h : exec .softReset s = .next t ∨ (s.inputs = .hwReset :: rest ∧ step s = .next t) ∨
      (s.inputs = .powerOn :: rest ∧ step s = .next t)) : SameCaps s t ∧ ∃ u : State, t = u.resetRegs := by
  rcases h with h | ⟨hi, h⟩ | ⟨hi, h⟩
  · exact ⟨(sameCaps_kept s).exec h ⟨rfl, rfl, rfl, rfl⟩, _, (Host.Outcome.next.inj h).symm⟩
  · exact ⟨stepKeepsTheCapacities s t h, _, Host.Outcome.next.inj (h.symm.trans (step_hwReset hi))⟩
  · exact ⟨stepKeepsTheCapacities s t h, _, Host.Outcome.next.inj (h.symm.trans (step_powerOn hi))⟩

/-- Settles O41: each reset ends in the reset of the registers; the one at power-on has drawn every buffer anew. -/
theorem everyResetSetsTheRegisters : Obligations.EveryResetSetsTheRegisters := by
  constructor
  · intro s t rest h
    obtain ⟨⟨hpix, hgrid, hpack, hout⟩, u, rfl⟩ := reset_cases h
    refine ⟨rfl, rfl, fun c hc => readCsr_resetRegs u c ?_, cfgWord_resetRegs u, crcHexWord_resetRegs u, hpix, hgrid,
      hpack, hout⟩
    revert c
    decide
  · intro s t rest hi h
    obtain rfl := Host.Outcome.next.inj (h.symm.trans (step_powerOn hi))
    simp only [State.powerCycle, resetRegs_mem, fillOut_mem, fillPack_mem, fillGrid_mem, redrawPix_mem, fillPack_draws,
      fillGrid_draws, redrawPix_draws, numberFrom, true_and]
    omega

end Sys2Proof.Machine
end

section
/-! SUPPORT. The acceptance of ENC (44_z64.md R210, 45_acs.md R230). -/

namespace Sys2Proof.Machine

/-- R36: ENC's check fails without a valid bitmap. -/
theorem encCheck_invalid {s : State} (h : s.packValid = false) : encCheck s = some (.sequence, 2) := by
  simp [encCheck, h]

theorem exec_enc {i : Instr} (h : i ∈ [Instr.encZ64, .encAcs]) (s : State) :
    exec i s = .next (issue i encCheck s) := by
  simp only [List.mem_cons, List.not_mem_nil, or_false] at h
  rcases h with rfl | rfl <;> rfl

/-- Settles O30: the failing check rejects. -/
theorem encNeedsAValidBitmap : Obligations.EncNeedsAValidBitmap := by
  intro s i hi hidle hv
  have hc : encCheck s.clearReport = some (.sequence, 2) := encCheck_invalid hv
  rw [exec_enc hi, issue_reject hidle hc]

end Sys2Proof.Machine
end

section
/-! SUPPORT. The markers of the ACS text (10_state.md R47, 45_acs.md R233). -/

namespace Sys2Proof.Machine

/-- R47: the letter of a multiple of 20, `g` to `y`. -/
theorem acsTens_getD {q : Nat} (h : 1 ≤ q) (h' : q < 20) : acsTens.getD q 0 = BitVec.ofNat 8 (0x66 + q) := by
  interval_cases q <;> rfl

/-- R47: the letter of a number below 20, `G` to `Y`. -/
theorem acsUnits_getD {u : Nat} (h : 1 ≤ u) (h' : u < 20) : acsUnits.getD u 0 = BitVec.ofNat 8 (0x46 + u) := by
  interval_cases u <;> rfl

theorem markerValue_tens {q : Nat} (h : 1 ≤ q) (h' : q < 20) :
    markerValue (BitVec.ofNat 8 (0x66 + q)) = some (20 * q) := by
  interval_cases q <;> rfl

theorem markerValue_units {u : Nat} (h : 1 ≤ u) (h' : u < 20) :
    markerValue (BitVec.ofNat 8 (0x46 + u)) = some u := by
  interval_cases u <;> rfl

/-- R233: ACSCOUNT in characters. -/
theorem acsCount_eq (len : Nat) : acsCount len =
    List.replicate (len / 400) 0x7A ++
    (if len % 400 < 20 then [] else [BitVec.ofNat 8 (0x66 + len % 400 / 20)]) ++
    (if len % 20 = 0 then [] else [BitVec.ofNat 8 (0x46 + len % 20)]) := by
  have hmod : len % 400 % 20 = len % 20 := Nat.mod_mod_of_dvd len (by decide)
  have htens : (if len % 400 ≥ 20 then [acsTens.getD (len % 400 / 20) 0] else []) =
      if len % 400 < 20 then [] else [BitVec.ofNat 8 (0x66 + len % 400 / 20)] := by
    by_cases h : len % 400 < 20
    · simp [h]
    · rw [if_pos (by omega), if_neg h, acsTens_getD (by omega) (by omega)]
  have hunits : (if len % 20 > 0 then [acsUnits.getD (len % 20) 0] else []) =
      if len % 20 = 0 then [] else [BitVec.ofNat 8 (0x46 + len % 20)] := by
    by_cases h : len % 20 = 0
    · simp [h]
    · rw [if_pos (by omega), if_neg h, acsUnits_getD (by omega) (by omega)]
  rw [acsCount, hmod, htens, hunits]
  rfl

/-- R233: the counts of the markers of a run. -/
def acsCounts (len : Nat) : List Nat :=
  List.replicate (len / 400) 400 ++
    (if len % 400 < 20 then [] else [20 * (len % 400 / 20)]) ++ (if len % 20 = 0 then [] else [len % 20])

theorem map_markerValue_acsCount (len : Nat) : (acsCount len).map markerValue = (acsCounts len).map some := by
  have hz : markerValue 0x7A = some 400 := by decide
  have htens : (if len % 400 < 20 then [] else [BitVec.ofNat 8 (0x66 + len % 400 / 20)]).map markerValue =
      (if len % 400 < 20 then [] else [20 * (len % 400 / 20)]).map some := by
    split
    · rfl
    · simp [markerValue_tens (q := len % 400 / 20) (by omega) (by omega)]
  have hunits : (if len % 20 = 0 then [] else [BitVec.ofNat 8 (0x46 + len % 20)]).map markerValue =
      (if len % 20 = 0 then [] else [len % 20]).map some := by
    split
    · rfl
    · simp [markerValue_units (u := len % 20) (by omega) (by omega)]
  rw [acsCount_eq, acsCounts]
  simp only [List.map_append, List.map_replicate, hz, htens, hunits]

theorem sum_acsCounts (len : Nat) : (acsCounts len).sum = len := by
  simp only [acsCounts, List.sum_append, List.sum_replicate, smul_eq_mul]
  split <;> split <;> simp <;> omega

/-- Settles O33: 400, 20 and 1 are the places of the run's length. -/
theorem acsMarkersCountTheRun : Obligations.AcsMarkersCountTheRun :=
  fun len _ => ⟨acsCount_eq len, acsCounts len, map_markerValue_acsCount len, sum_acsCounts len⟩

end Sys2Proof.Machine
end

section
/-! SUPPORT. Memory stays canonical and within the capacities (20_memory.md R60, R67). -/

namespace Sys2Proof.Machine

/-- A listing in canonical form that lists no element at or beyond `n`. -/
def Canonical {α : Type} (n : Nat) (l : List (Nat × α)) : Prop := rising l = true ∧ below n l = true

theorem canonical_numberFrom {α : Type} {n : Nat} {l : List α} (h : l.length ≤ n) : Canonical n (numberFrom 0 l) :=
  ⟨rising_numberFrom l 0, below_numberFrom l (by omega)⟩

theorem ByteBuf.canonical_writeAll {b : ByteBuf} {n : Nat} (h : Canonical n b.cells) {l : List Byte} {i : Nat}
    (hi : i + l.length ≤ n) : Canonical n (b.writeAll i l).cells :=
  ⟨b.writeAll_rising l i h.1, b.writeAll_below l hi h.2⟩

theorem BitBuf.canonical_writeBytes {b : BitBuf} {n : Nat} (h : Canonical n b.cells) {l : List Byte} {i : Nat}
    (hi : 8 * (i + l.length) ≤ n) : Canonical n (b.writeBytes i l).cells :=
  ⟨b.writeAll_rising _ _ h.1, b.writeAll_below _ (by rw [length_flatMap_bits]; omega) h.2⟩

/-- R67: `m` lists, in canonical form, no element at or beyond a capacity of `s`. -/
structure MemFits (s : State) (m : Memory) : Prop where
  pix : Canonical s.capPix.toNat m.pix.cells
  grid : Canonical s.capGrid.toNat m.grid.cells
  pack : Canonical s.capPack.toNat m.pack.cells
  out : Canonical s.capOut.toNat m.out.cells

theorem memOk_iff (s : State) : s.memOk = true ↔ MemFits s s.mem := by
  simp only [State.memOk, Bool.and_eq_true, Memory.wf_iff]
  constructor
  · rintro ⟨⟨⟨⟨⟨rp, rg, rk, ro⟩, bp⟩, bg⟩, bk⟩, bo⟩
    exact ⟨⟨rp, bp⟩, ⟨rg, bg⟩, ⟨rk, bk⟩, ⟨ro, bo⟩⟩
  · rintro ⟨⟨rp, bp⟩, ⟨rg, bg⟩, ⟨rk, bk⟩, ⟨ro, bo⟩⟩
    exact ⟨⟨⟨⟨⟨rp, rg, rk, ro⟩, bp⟩, bg⟩, bk⟩, bo⟩

/-! ## Buffers that a command fills -/

/-- R104, R109: what one stage, or the end of a command, leaves in memory: at most one buffer is filled anew, with
elements that fit. -/
inductive Filled (s : State) : Memory → Prop where
  | same : Filled s s.mem
  | grid (l : List Bool) (h : l.length ≤ s.capGrid.toNat) :
    Filled s { s.mem with grid := ⟨numberFrom 0 l, s.draws⟩ }
  | pack (l : List Byte) (h : l.length ≤ s.capPack.toNat) :
    Filled s { s.mem with pack := ⟨numberFrom 0 l, s.draws⟩ }
  | out (l : List Byte) (h : l.length ≤ s.capOut.toNat) :
    Filled s { s.mem with out := ⟨numberFrom 0 l, s.draws⟩ }

theorem Filled.memFits {s : State} {m : Memory} (h : Filled s m) (hs : MemFits s s.mem) : MemFits s m := by
  obtain ⟨hp, hg, hk, ho⟩ := hs
  cases h with
  | same => exact ⟨hp, hg, hk, ho⟩
  | grid l h => exact ⟨hp, canonical_numberFrom h, hk, ho⟩
  | pack l h => exact ⟨hp, hg, canonical_numberFrom h, ho⟩
  | out l h => exact ⟨hp, hg, hk, canonical_numberFrom h⟩

theorem memOk_of_filled {s t : State} (h : Filled s t.mem) (hc : SameCaps s t) (hs : s.memOk = true) :
    t.memOk = true := by
  obtain ⟨hp, hg, hk, ho⟩ := h.memFits ((memOk_iff s).mp hs)
  obtain ⟨cp, cg, ck, co⟩ := hc
  exact (memOk_iff t).mpr ⟨cp ▸ hp, cg ▸ hg, ck ▸ hk, co ▸ ho⟩

theorem filled_threshStage (s : State) : Filled s (threshStage s).state.mem := by
  by_cases hf : s.window.w * s.window.h ≤ s.capGrid.toNat
  · rw [threshStage_fits hf]
    exact .grid _ (by rwa [length_windowCells, Nat.mul_comm])
  · rw [threshStage_overflow (Nat.lt_of_not_le hf)]
    exact .grid [] (Nat.zero_le _)

theorem filled_packStage (o : Orient) (s : State) : Filled s (packStage o s).state.mem := by
  by_cases hf : ceil8 (outDims o s.gridW.toNat s.gridH.toNat).1 * (outDims o s.gridW.toNat s.gridH.toNat).2
      ≤ s.capPack.toNat
  · rw [packStage_fits hf]
    exact .pack _ (by rwa [State.packResult, length_packBytes])
  · rw [packStage_overflow (Nat.lt_of_not_le hf)]
    exact .pack [] (Nat.zero_le _)

theorem filled_writePayload (p : List Byte) (s : State) : Filled s (writePayload p s).state.mem := by
  by_cases hf : p.length ≤ s.capOut.toNat
  · rw [writePayload_fits hf]
    exact .out p hf
  · rw [writePayload_overflow (Nat.lt_of_not_le hf)]
    exact .out [] (Nat.zero_le _)

theorem filled_z64Finish (r : Option (List Byte)) (s : State) : Filled s (z64Finish r s).state.mem := by
  cases r with
  | none => exact .out [] (Nat.zero_le _)
  | some d =>
    by_cases hf : 10 + (base64 d).length ≤ s.capOut.toNat
    · rw [z64Finish_fits hf]
      exact .out _ (by rwa [length_z64Payload])
    · rw [z64Finish_overflow (Nat.lt_of_not_le hf)]
      exact .out [] (Nat.zero_le _)

theorem filled_runStage (st : Stage) (s : State) : Filled s (runStage st s).state.mem := by
  match st with
  | .crcInit | .loadGrid | .loadPack => exact .same
  | .thresh => exact filled_threshStage s
  | .pack o => exact filled_packStage o s
  | .enc .z64 => exact filled_z64Finish _ s
  | .enc .acs => exact filled_writePayload _ s

/-! ## The invariant, event by event -/

theorem memOk_enter {s : State} (h : s.memOk = true) (cmd : Instr) (st : Stage) (rest : List Stage) :
    (s.enter cmd st rest).memOk = true := by
  rw [enter_eq]
  exact h

theorem memOk_runStages {s : State} (h : s.memOk = true) (cmd : Instr) (st : Stage) (rest : List Stage) :
    (runStages cmd st rest s).memOk = true := by
  have hend : ∀ st u e, u.memOk = true → runStage st u = e → e.state.memOk = true := by
    rintro st u _ hu rfl
    exact memOk_of_filled (filled_runStage st u) (runStage_outside st u).caps hu
  refine runStages_induct (P := fun _ _ u => u.memOk = true) (Q := fun t => t.memOk = true) ?_ ?_ ?_ ?_ rest st s h
  · intro st _ u code info u1 hu hr; exact hend st u (.abort code info u1) hu hr
  · intro st u u1 hu hr; exact hend st u (.ok u1) hu hr
  · intro st st' r u u1 hu hr; exact memOk_enter (hend st u (.ok u1) hu hr) cmd st' r
  · intro st st' r u u1 hu hr; exact memOk_enter (hend st u (.ok u1) hu hr) cmd st' r

theorem memOk_fillGrid_nil {s : State} (h : s.memOk = true) : (s.fillGrid []).memOk = true :=
  memOk_of_filled (.grid [] (Nat.zero_le _)) ⟨rfl, rfl, rfl, rfl⟩ h

theorem memOk_fillPack_nil {s : State} (h : s.memOk = true) : (s.fillPack []).memOk = true :=
  memOk_of_filled (.pack [] (Nat.zero_le _)) ⟨rfl, rfl, rfl, rfl⟩ h

theorem memOk_fillOut_nil {s : State} (h : s.memOk = true) : (s.fillOut []).memOk = true :=
  memOk_of_filled (.out [] (Nat.zero_le _)) ⟨rfl, rfl, rfl, rfl⟩ h

theorem memOk_ite (b : Bool) {s t : State} (ht : t.memOk = true) (hs : s.memOk = true) :
    (if b then t else s).memOk = true := by
  cases b <;> assumption

/-- R112: the destination buffers that a reset draws anew list nothing. -/
theorem memOk_endCommand {s : State} (h : s.memOk = true) : s.endCommand.memOk = true := by
  have hgrid := memOk_ite s.gridOpen (memOk_fillGrid_nil h) h
  have hpack := memOk_ite s.packOpen (memOk_fillPack_nil hgrid) hgrid
  exact memOk_ite s.outOpen (memOk_fillOut_nil hpack) hpack

theorem memOk_exec {i : Instr} {u m : State} (h : exec i u = .next m) (hu : u.memOk = true) : m.memOk = true := by
  rcases exec_cases i u with ⟨-, e⟩ | ⟨v, -, e⟩ | ⟨-, -, check, st, rest, hs, e, -⟩ <;>
    obtain rfl := Host.Outcome.next.inj (h.symm.trans e)
  · exact memOk_endCommand hu
  · split
    · exact hu
    · rw [crcFeedIdle_eq]
      exact hu
  · rcases issue_cases i check u hs with ⟨-, e⟩ | ⟨-, code, info, -, e⟩ | ⟨-, -, e⟩ <;> rw [e]
    · exact hu
    · exact hu
    · have he := memOk_enter (s := u.clearReport) hu i st rest
      unfold State.accept
      split
      · exact memOk_runStages he i st rest
      · exact he

/-- R60: a host write reaches the elements of its own buffer alone, all of them below the capacity. -/
theorem memOk_performWrite {s : State} {n : Width} {a : Word} {p : Place} (hp : place s n a = .ok p) (v : Word)
    (h : s.memOk = true) : (performWrite n.bytes p v s).memOk = true := by
  obtain ⟨bpix, bgrid, bpack, -⟩ := place_bounds hp
  obtain ⟨hpix, hgrid, hpack, hout⟩ := (memOk_iff s).mp h
  cases p with
  | csr c => cases c <;> exact h
  | pix i =>
    exact (memOk_iff _).mpr ⟨ByteBuf.canonical_writeAll hpix (by simpa using bpix i rfl), hgrid, hpack, hout⟩
  | grid i =>
    exact (memOk_iff _).mpr ⟨hpix, BitBuf.canonical_writeBytes hgrid (by simpa using bgrid i rfl), hpack, hout⟩
  | pack i =>
    exact (memOk_iff _).mpr ⟨hpix, hgrid, ByteBuf.canonical_writeAll hpack (by simpa using bpack i rfl), hout⟩
  | out i => exact h

theorem memOk_access {u m : State} (h : Access u m) (hu : u.memOk = true) : m.memOk = true := by
  cases h with
  | read n a p hp =>
    rcases readPlace_cases n.bytes p u with ⟨-, e⟩ | ⟨-, e⟩ <;> rw [e] <;> exact hu
  | instr i m h => exact memOk_exec h hu
  | badWord wd => unfold badCommand; split <;> exact hu
  | write n a p v hp =>
    rcases writePlace_cases n.bytes p v u with ⟨-, -, e⟩ | ⟨-, e⟩ <;> rw [e]
    · exact hu
    · exact memOk_performWrite hp v hu

/-- Settles O55: a stage fills its buffer only with elements that fit, a reset draws buffers that list nothing, and
the address map lets no host write beyond a capacity. -/
theorem stepKeepsMemoryCanonical : Obligations.StepKeepsMemoryCanonical :=
  fun _ _ hs h => step_induct (P := fun u => u.memOk = true) h hs
    (inputs := fun _ _ hu => hu)
    (stages := fun _ cmd st rest _ hu _ => memOk_runStages hu cmd st rest)
    (count := fun _ _ _ _ _ hu _ => hu)
    (reset := fun _ hu => memOk_endCommand hu)
    (power := fun _ _ => rfl)
    (wait := fun _ hu => hu)
    (access := fun _ _ hu ha => memOk_access ha hu)

end Sys2Proof.Machine
end

section
/-! SUPPORT. The address map of the host bus and its errors (10_state.md R23, 20_memory.md R60 to R64). -/

namespace Sys2Proof.Machine

/-- R60: an access of `n` bytes at `a` lies whole in the `size` bytes from `base` on. -/
def Mapped (base size n a : Nat) : Prop := base ≤ a ∧ a + n ≤ base + size

/-- R64: the address of a load that the bus answers with BusError. -/
def BadAddress (s : State) (n : Width) (a : Nat) : Prop :=
  a % n.bytes ≠ 0 ∨ (a < 0x1000 ∧ (n ≠ .word ∨ 0x058 ≤ a)) ∨
    (0x1000 ≤ a ∧ ¬ Mapped 0x10000000 s.capPix.toNat n.bytes a ∧
      ¬ Mapped 0x20000000 (s.capGrid.toNat / 8) n.bytes a ∧
      ¬ Mapped 0x30000000 s.capPack.toNat n.bytes a ∧ ¬ Mapped 0x40000000 s.capOut.toNat n.bytes a)

theorem width_bytes_pos (n : Width) : 0 < n.bytes := by cases n <;> decide

theorem within_eq_none {base size n a : Nat} : within base size n a = none ↔ ¬ Mapped base size n a := within_none

theorem within_eq_some {base size n a i : Nat} :
    within base size n a = some i ↔ a = base + i ∧ Mapped base size n a := by
  unfold within Mapped
  split
  · simp only [Option.some.injEq]
    omega
  · simp [*]

/-! ## The parts of the address map -/

theorem place_misaligned {s : State} {n : Width} {a : Word} (h : a.toNat % n.bytes ≠ 0) :
    place s n a = .error .misaligned := by
  simp [place, h]

theorem place_narrow_csr {s : State} {n : Width} {a : Word} (h : a.toNat % n.bytes = 0) (hp : a.toNat < 0x1000)
    (hn : n ≠ .word) : place s n a = .error .csrWidth := by
  simp [place, h, csrPageSize, hp, hn]

theorem place_hole {s : State} {a : Word} (h : a.toNat % 4 = 0) (hp : a.toNat < 0x1000) (hc : 0x058 ≤ a.toNat) :
    place s .word a = .error .csrHole := by
  have hnone : csrAt a = none := by
    by_contra hne
    obtain ⟨c, hc'⟩ := Option.ne_none_iff_exists'.mp hne
    have := (csr_offset_small c).1
    rw [← csrAt_some hc'] at this
    omega
  simp [place, Width.bytes, h, csrPageSize, hp, hnone]

/-- R60: an access below the buffers is of a CSR. -/
theorem place_low {s : State} {n : Width} {a : Word} {p : Place} (h : place s n a = .ok p) (ha : a.toNat < 0x1000) :
    ∃ c, p = .csr c := by
  simp only [place, csrPageSize, ha, if_true] at h
  split at h
  · cases h
  · split at h
    · cases h
    · split at h
      · next c _ => cases h; exact ⟨c, rfl⟩
      · cases h

theorem place_buffer {s : State} {n : Width} {a : Word} (h : a.toNat % n.bytes = 0) (hp : 0x1000 ≤ a.toNat) :
    place s n a = bufferPlace s n.bytes a.toNat := by
  simp [place, h, csrPageSize, Nat.not_lt.mpr hp]

theorem bufferPlace_error_iff {s : State} {n a : Nat} : (∃ e, bufferPlace s n a = .error e) ↔
    ¬ Mapped 0x10000000 s.capPix.toNat n a ∧ ¬ Mapped 0x20000000 (s.capGrid.toNat / 8) n a ∧
      ¬ Mapped 0x30000000 s.capPack.toNat n a ∧ ¬ Mapped 0x40000000 s.capOut.toNat n a := by
  simp only [← within_eq_none]
  unfold bufferPlace
  cases within 0x10000000 s.capPix.toNat n a with
  | some i => simp
  | none =>
  cases within 0x20000000 (s.capGrid.toNat / 8) n a with
  | some i => simp
  | none =>
  cases within 0x30000000 s.capPack.toNat n a with
  | some i => simp
  | none => cases within 0x40000000 s.capOut.toNat n a <;> simp

theorem place_error_iff (s : State) (n : Width) (a : Word) :
    (∃ e, place s n a = .error e) ↔ BadAddress s n a.toNat := by
  unfold BadAddress
  by_cases hal : a.toNat % n.bytes = 0
  · by_cases hp : a.toNat < 0x1000
    · by_cases hn : n = .word
      · subst hn
        by_cases hc : 0x058 ≤ a.toNat
        · simp [place_hole hal hp hc, hp, hc]
        · obtain ⟨c, hc'⟩ := csrAt_of_lt (Nat.lt_of_not_le hc) hal
          obtain rfl := csrAt_some hc'
          simp [place_offset, hal, hc, show ¬ 0x1000 ≤ c.offset.toNat by omega]
      · simp [place_narrow_csr hal hp hn, hp, hn]
    · rw [place_buffer hal (Nat.le_of_not_lt hp), bufferPlace_error_iff]
      simp [hal, hp, Nat.le_of_not_lt hp]
  · simp [place_misaligned hal, hal]

/-! ## Where every other access goes -/

/-- R23, R60: the CSR or the buffer element that stands at an address. -/
def Place.At (s : State) (n : Width) (a : Nat) : Place → Prop
  | .csr c => n = .word ∧ a = c.offset.toNat
  | .pix i => a = 0x10000000 + i ∧ Mapped 0x10000000 s.capPix.toNat n.bytes a
  | .grid i => a = 0x20000000 + i ∧ Mapped 0x20000000 (s.capGrid.toNat / 8) n.bytes a
  | .pack i => a = 0x30000000 + i ∧ Mapped 0x30000000 s.capPack.toNat n.bytes a
  | .out i => a = 0x40000000 + i ∧ Mapped 0x40000000 s.capOut.toNat n.bytes a

theorem place_eq_csr_iff (s : State) (n : Width) (a : Word) (c : Csr) :
    place s n a = .ok (.csr c) ↔ a.toNat % n.bytes = 0 ∧ n = .word ∧ a.toNat = c.offset.toNat := by
  constructor
  · intro h
    obtain ⟨rfl, rfl⟩ := place_csr h
    exact ⟨(csr_offset_small c).2, rfl, rfl⟩
  · rintro ⟨-, rfl, h⟩
    rw [BitVec.eq_of_toNat_eq h]
    exact place_offset s c

theorem at_of_bufferPlace {s : State} {n : Width} {a : Nat} {p : Place} (h : bufferPlace s n.bytes a = .ok p) :
    p.At s n a := by
  unfold bufferPlace at h
  split at h
  · next hw => cases h; exact within_eq_some.mp hw
  · split at h
    · next hw => cases h; exact within_eq_some.mp hw
    · split at h
      · next hw => cases h; exact within_eq_some.mp hw
      · split at h
        · next hw => cases h; exact within_eq_some.mp hw
        · cases h

/-- An access in one region lies in no region that ends before it. -/
theorem Mapped.within_below_eq_none {b z b' z' n a : Nat} (h : Mapped b z n a) (hn : 0 < n) (hb : b' + z' ≤ b) :
    within b' z' n a = none := by
  rw [within_eq_none]
  unfold Mapped at *
  omega

/-- R8, R60: no legal buffer reaches the base of the next one, so each region goes to its own buffer. -/
theorem bufferPlace_of_at {s : State} (hc : s.capsOk = true) {n : Width} {a : Nat} (ha : 0x1000 ≤ a) {p : Place}
    (h : p.At s n a) : bufferPlace s n.bytes a = .ok p := by
  obtain ⟨⟨-, -, hpix⟩, ⟨-, -, hgrid⟩, ⟨-, -, hpack⟩, -⟩ := (capsLegal_iff ..).mp hc
  have hn := width_bytes_pos n
  cases p with
  | csr c =>
    have := csr_offset_small c
    obtain ⟨-, rfl⟩ := h
    omega
  | pix i => simp [bufferPlace, within_eq_some.mpr h]
  | grid i =>
    have h1 := h.2.within_below_eq_none (b' := 0x10000000) (z' := s.capPix.toNat) hn (by omega)
    simp [bufferPlace, h1, within_eq_some.mpr h]
  | pack i =>
    have h1 := h.2.within_below_eq_none (b' := 0x10000000) (z' := s.capPix.toNat) hn (by omega)
    have h2 := h.2.within_below_eq_none (b' := 0x20000000) (z' := s.capGrid.toNat / 8) hn (by omega)
    simp [bufferPlace, h1, h2, within_eq_some.mpr h]
  | out i =>
    have h1 := h.2.within_below_eq_none (b' := 0x10000000) (z' := s.capPix.toNat) hn (by omega)
    have h2 := h.2.within_below_eq_none (b' := 0x20000000) (z' := s.capGrid.toNat / 8) hn (by omega)
    have h3 := h.2.within_below_eq_none (b' := 0x30000000) (z' := s.capPack.toNat) hn (by omega)
    simp [bufferPlace, h1, h2, h3, within_eq_some.mpr h]

/-- R60: only the CSR page lies below the buffers. -/
theorem Place.At.low {s : State} {n : Width} {a : Nat} {p : Place} (h : p.At s n a) (ha : a < 0x1000) :
    ∃ c, p = .csr c := by
  cases p with
  | csr c => exact ⟨c, rfl⟩
  | pix i | grid i | pack i | out i => obtain ⟨rfl, -⟩ := h; omega

theorem place_ok_iff {s : State} (hc : s.capsOk = true) (n : Width) (a : Word) (p : Place) :
    place s n a = .ok p ↔ a.toNat % n.bytes = 0 ∧ p.At s n a.toNat := by
  by_cases hal : a.toNat % n.bytes = 0
  · by_cases ha : 0x1000 ≤ a.toNat
    · rw [place_buffer hal ha]
      exact ⟨fun h => ⟨hal, at_of_bufferPlace h⟩, fun h => bufferPlace_of_at hc ha h.2⟩
    · constructor
      · intro h
        obtain ⟨c, rfl⟩ : ∃ c, p = .csr c := place_low h (by omega)
        exact (place_eq_csr_iff s n a c).mp h
      · rintro ⟨-, h⟩
        obtain ⟨c, rfl⟩ := h.low (by omega)
        exact (place_eq_csr_iff s n a c).mpr ⟨hal, h⟩
  · simp [place_misaligned hal, hal]

/-! ## Loads and stores -/

theorem stepLoad_fault_iff (s : State) (n : Width) (a : Word) :
    (∃ e, stepLoad n a s = .fault e) ↔ ∃ e, place s n a = .error e := by
  unfold stepLoad
  cases place s n a <;> simp

/-- R64, R89: the one other fault of a store is the write to OUT; a command word that does not decode is none. -/
theorem storeKind_error_iff (s : State) (n : Width) (a v : Word) :
    (∃ e, storeKind s n a v = .error e) ↔ (∃ e, place s n a = .error e) ∨ ∃ i, place s n a = .ok (.out i) := by
  unfold storeKind
  cases place s n a with
  | error e => simp
  | ok p =>
    cases p with
    | csr c => cases c <;> simp <;> split <;> simp
    | pix i | grid i | pack i | out i => simp

theorem exec_next (i : Instr) (s : State) : ∃ t, exec i s = .next t := by
  rcases exec_cases i s with ⟨-, e⟩ | ⟨v, -, e⟩ | ⟨-, -, check, st, rest, -, e, -⟩ <;> exact ⟨_, e⟩

theorem stepStore_fault_iff (s : State) (n : Width) (a v : Word) :
    (∃ e, stepStore n a v s = .fault e) ↔ ∃ e, storeKind s n a v = .error e := by
  unfold stepStore
  cases storeKind s n a v with
  | error e => simp
  | ok k =>
    cases k with
    | instr i =>
      obtain ⟨t, ht⟩ := exec_next i s
      simp [ht]
    | badWord wd | plain p => simp

theorem place_eq_out_iff {s : State} (hc : s.capsOk = true) (n : Width) (a : Word) :
    (∃ i, place s n a = .ok (.out i)) ↔
      a.toNat % n.bytes = 0 ∧ Mapped 0x40000000 s.capOut.toNat n.bytes a.toNat := by
  simp only [place_ok_iff hc, Place.At]
  constructor
  · rintro ⟨i, hal, -, hm⟩
    exact ⟨hal, hm⟩
  · rintro ⟨hal, hm⟩
    exact ⟨a.toNat - 0x40000000, hal, by have := hm.1; omega, hm⟩

/-- Settles O49: the legal regions are disjoint, so an access is of the one place at its address or, where there is
none, an error; the store to OUT is the one error more. -/
theorem busErrorsAreExactlyTheListed : Obligations.BusErrorsAreExactlyTheListed := by
  intro s n a v hc
  refine ⟨(stepLoad_fault_iff s n a).trans (place_error_iff s n a), ?_, fun p => (place_ok_iff hc n a p).trans ?_⟩
  · show _ ↔ BadAddress s n a.toNat ∨ Mapped 0x40000000 s.capOut.toNat n.bytes a.toNat
    rw [stepStore_fault_iff, storeKind_error_iff, place_error_iff, place_eq_out_iff hc]
    have hmis : a.toNat % n.bytes ≠ 0 → BadAddress s n a.toNat := .inl
    tauto
  · cases p with
    | csr c => cases c <;> exact .rfl
    | pix i | grid i | pack i | out i => exact .rfl

end Sys2Proof.Machine
end

section
/-! SUPPORT. A step at a host load or store (20_memory.md R68, 30_encoding.md R88, R90). -/

namespace Sys2Proof.Machine

theorem step_load {s : State} {rest : List Input} {n : Width} {a : Word}
    (h : s.inputs = .host (.load n a) :: rest) :
    step s = after s.busy (stepLoad n a { s with inputs := rest }) := by
  simp [step, h]

theorem step_store {s : State} {rest : List Input} {n : Width} {a v : Word}
    (h : s.inputs = .host (.store n a v) :: rest) :
    step s = after s.busy (stepStore n a v { s with inputs := rest }) := by
  simp [step, h]

/-- R88: a word store to a command port runs the instruction that its word decodes to. -/
theorem stepStore_port {c : Csr} (hc : c = .cmd ∨ c = .crcData) {v : Word} {i : Instr}
    (hd : decodeWrite c.offset v = .ok i) (s : State) : stepStore .word c.offset v s = exec i s := by
  rcases hc with rfl | rfl <;> simp [stepStore, storeKind, place_offset, hd]

/-- Settles O4: a step at a load or store is that access and then the count of it (`after`); a store to a command port
is the decoded instruction. -/
theorem stepRunsTheDecodedInstruction : Obligations.StepRunsTheDecodedInstruction := by
  refine ⟨?_, ?_, ?_⟩
  · intro s rest c v i hc hi hd
    rw [step_store hi, stepStore_port hc hd]
    rfl
  · intro s rest n a v hi
    rw [step_store hi]
    rfl
  · intro s rest n a hi
    rw [step_load hi]
    rfl

end Sys2Proof.Machine
end

section
/-! SUPPORT. The decoder and the encoder are inverse to each other (30_encoding.md R80 to R92). -/

namespace Sys2Proof

/-! ## The fields of a word as numbers (R80, R84) -/

theorem toNat_opField (w : Word) : (opField w).toNat = w.toNat % 256 := by
  simp [opField]

theorem toNat_rotField (w : Word) : (rotField w).toNat = w.toNat / 256 % 8 := by
  simp [rotField, Nat.shiftRight_eq_div_pow]

theorem toNat_fmtField (w : Word) : (fmtField w).toNat = w.toNat / 4096 % 2 := Nat.toNat_testBit w.toNat 12

theorem reservedSet_eq_false_iff (w : Word) :
    reservedSet w = false ↔ w.toNat / 2048 % 2 = 0 ∧ w.toNat / 8192 = 0 := by
  have hlow : w.getLsbD 11 = false ↔ w.toNat / 2048 % 2 = 0 := by
    simp [BitVec.getLsbD, Nat.testBit_eq_decide_div_mod_eq]
  have hhigh : w.extractLsb' 13 19 = 0 ↔ w.toNat / 8192 = 0 := by
    have hw := w.isLt
    rw [← BitVec.toNat_inj, BitVec.extractLsb'_toNat, Nat.shiftRight_eq_div_pow,
      show (0 : BitVec 19).toNat = 0 from rfl]
    omega
  rw [reservedSet, Bool.or_eq_false_iff, bne_eq_false_iff_eq, hlow, hhigh]

/-- R80, R84: a word without reserved bits is its three fields. -/
theorem toNat_eq_fields {w : Word} (h : reservedSet w = false) :
    w.toNat = (opField w).toNat + 256 * (rotField w).toNat + 4096 * (fmtField w).toNat := by
  obtain ⟨h11, hhigh⟩ := (reservedSet_eq_false_iff w).mp h
  rw [toNat_opField, toNat_rotField, toNat_fmtField]
  omega

/-! ## What a decoded command says of the fields -/

/-- `i` is a command, and its word has these fields. -/
def HasFields (i : Instr) (op : Nat) (rot : BitVec 3) (fmt : Bool) : Prop :=
  portOf i = .cmd ∧ (encodeWord i).toNat = op + 256 * rot.toNat + 4096 * fmt.toNat

theorem plainForm_hasFields {i j : Instr} {op : Nat} {rot : BitVec 3} {fmt : Bool} (hj : HasFields j op 0 false)
    (h : plainForm j rot fmt = .ok i) : HasFields i op rot fmt := by
  unfold plainForm at h
  split at h
  · next hz => obtain ⟨rfl, rfl⟩ := hz; cases h; exact hj
  · cases h

theorem packForm_hasFields {i : Instr} {rot : BitVec 3} (h : packForm rot = .ok i) : HasFields i 0x20 rot false := by
  unfold packForm at h
  split at h <;> cases h <;> next hr => simp [HasFields, portOf, encodeWord, hr]

theorem convertForm_hasFields {i : Instr} {rot : BitVec 3} {fmt : Bool} (h : convertForm rot fmt = .ok i) :
    HasFields i 0x40 rot fmt := by
  unfold convertForm at h
  split at h <;> cases h <;> next hr => simp [HasFields, portOf, encodeWord, hr]

theorem encForm_hasFields {i : Instr} {fmt : Bool}
    (h : (.ok (if fmt then .encAcs else .encZ64) : Except DecodeError Instr) = .ok i) : HasFields i 0x30 0 fmt := by
  cases fmt <;> cases h <;> exact ⟨rfl, rfl⟩

theorem decodeCmd_hasFields {w : Word} {i : Instr} (h : decodeCmd w = .ok i) :
    reservedSet w = false ∧ HasFields i (opField w).toNat (rotField w) (fmtField w) := by
  unfold decodeCmd at h
  simp only at h
  split at h
  · cases h
  next hr =>
    refine ⟨by simpa using hr, ?_⟩
    split at h
    · next hop => exact hop ▸ plainForm_hasFields ⟨rfl, rfl⟩ h
    · next hop => exact hop ▸ plainForm_hasFields ⟨rfl, rfl⟩ h
    · next hop => exact hop ▸ plainForm_hasFields ⟨rfl, rfl⟩ h
    · next hop =>
      split at h
      · cases h
      · next hf => exact hop ▸ Bool.eq_false_of_not_eq_true hf ▸ packForm_hasFields h
    · next hop => exact hop ▸ plainForm_hasFields ⟨rfl, rfl⟩ h
    · next hop =>
      split at h
      · next hz => exact hop ▸ hz ▸ encForm_hasFields h
      · cases h
    · next hop => exact hop ▸ convertForm_hasFields h
    · next hop => exact hop ▸ plainForm_hasFields ⟨rfl, rfl⟩ h
    · cases h

/-- R89: the decoder reads each word as at most the one command whose word it is. -/
theorem decodeCmd_eq_ok {w : Word} {i : Instr} (h : decodeCmd w = .ok i) : portOf i = .cmd ∧ encodeWord i = w := by
  obtain ⟨hr, hport, hword⟩ := decodeCmd_hasFields h
  exact ⟨hport, BitVec.eq_of_toNat_eq (hword.trans (toNat_eq_fields hr).symm)⟩

/-! ## Both directions (R88, R92) -/

theorem encode_of_decodeWrite {off v : Word} {i : Instr} (h : decodeWrite off v = .ok i) : encode i = (off, v) := by
  unfold decodeWrite at h
  split at h
  · next hoff =>
    obtain ⟨hport, hword⟩ := decodeCmd_eq_ok h
    rw [encode, hport, hword, hoff]
  · split at h
    · next hoff => cases h; rw [hoff]; rfl
    · cases h

open Laws.WordRoundTrip in
theorem wordRoundTrip : ∀ i : Instr, Statement i
  | .crcInit => crcInit
  | .thresh => thresh
  | .loadGrid => loadGrid
  | .packN => packN
  | .packI => packI
  | .packL => packL
  | .packB => packB
  | .packR => packR
  | .loadPack => loadPack
  | .encZ64 => encZ64
  | .encAcs => encAcs
  | .convertZ64N => convertZ64N
  | .convertZ64I => convertZ64I
  | .convertZ64L => convertZ64L
  | .convertZ64B => convertZ64B
  | .convertZ64R => convertZ64R
  | .convertAcsN => convertAcsN
  | .convertAcsI => convertAcsI
  | .convertAcsL => convertAcsL
  | .convertAcsB => convertAcsB
  | .convertAcsR => convertAcsR
  | .softReset => softReset
  | .crcFeed v => crcFeed v

theorem decodeWrite_encode (i : Instr) : decodeWrite (encode i).1 (encode i).2 = .ok i := by
  obtain ⟨-, hdecode, -⟩ := wordRoundTrip i
  exact hdecode

/-- Settles O2: a decoded word has the fields of the instruction's own word and no others, and every instruction's
word decodes to it. -/
theorem decodeAndEncodeAgree : Obligations.DecodeAndEncodeAgree := by
  refine fun i off v _ => ⟨encode_of_decodeWrite, fun h => ?_⟩
  simpa [h] using decodeWrite_encode i

/-- Settles O1: each word of the table is the encoding of its command. -/
theorem everyMnemonicHasItsWord : Obligations.EveryMnemonicHasItsWord :=
  ⟨decodeWrite_encode .crcInit, decodeWrite_encode .thresh, decodeWrite_encode .loadGrid, decodeWrite_encode .packN,
    decodeWrite_encode .packI, decodeWrite_encode .packL, decodeWrite_encode .packB, decodeWrite_encode .packR,
    decodeWrite_encode .loadPack, decodeWrite_encode .encZ64, decodeWrite_encode .encAcs,
    decodeWrite_encode .convertZ64N, decodeWrite_encode .convertZ64I, decodeWrite_encode .convertZ64L,
    decodeWrite_encode .convertZ64B, decodeWrite_encode .convertZ64R, decodeWrite_encode .convertAcsN,
    decodeWrite_encode .convertAcsI, decodeWrite_encode .convertAcsL, decodeWrite_encode .convertAcsB,
    decodeWrite_encode .convertAcsR, decodeWrite_encode .softReset, fun v => decodeWrite_encode (.crcFeed v)⟩

end Sys2Proof
end

section
/-! SUPPORT. The decoder at work: a command word that does not decode (30_encoding.md R84, R85) and the checksum of a
string (41_crc16.md R134 to R136). -/

namespace Sys2Proof.Machine

/-! ## Words that are no command (R84, R85) -/

/-- R84, R85: the words that stand for no command, with the fields of R80 as numbers. -/
def NoCommandWord (n : Nat) : Prop :=
  n / 2048 % 2 ≠ 0 ∨ n / 8192 ≠ 0 ∨
  n % 256 ∉ [0x01, 0x10, 0x11, 0x20, 0x21, 0x30, 0x40, 0xFF] ∨
  (n % 256 ∈ [0x01, 0x10, 0x11, 0x21, 0xFF] ∧ (n / 256 % 8 ≠ 0 ∨ n / 4096 % 2 ≠ 0)) ∨
  (n % 256 = 0x20 ∧ (4 < n / 256 % 8 ∨ n / 4096 % 2 ≠ 0)) ∨ (n % 256 = 0x30 ∧ n / 256 % 8 ≠ 0) ∨
  (n % 256 = 0x40 ∧ 4 < n / 256 % 8)

theorem not_noCommandWord_encodeWord {i : Instr} (h : portOf i = .cmd) : ¬ NoCommandWord (encodeWord i).toNat := by
  unfold NoCommandWord
  cases i with
  | crcFeed v => cases h
  | _ => decide

theorem decodeCmd_noCommandWord {w : Word} (h : NoCommandWord w.toNat) : ∃ e, decodeCmd w = .error e := by
  cases hd : decodeCmd w with
  | error e => exact ⟨e, rfl⟩
  | ok i =>
    obtain ⟨hport, rfl⟩ := decodeCmd_eq_ok hd
    exact absurd h (not_noCommandWord_encodeWord hport)

theorem stepStore_badWord {w : Word} {e : DecodeError} (h : decodeCmd w = .error e) (s : State) :
    stepStore .word Csr.cmd.offset w s = .next (badCommand w s) := by
  simp [stepStore, storeKind, place_offset, decodeWrite, h]

/-- Settles O3: such a word is no command's encoding, so the decoder refuses it, and an idle block rejects it. -/
theorem undecodableWordsAreRejected : Obligations.UndecodableWordsAreRejected := by
  intro s rest w op rot fmt hidle hin hw
  obtain ⟨e, he⟩ := decodeCmd_noCommandWord hw
  have hstore : stepStore .word 0x000 w { s with inputs := rest } = _ := stepStore_badWord he _
  rw [step_store hin, hstore, badCommand_idle (s := { s with inputs := rest }) hidle, busy_eq_false hidle]
  rfl

/-! ## The checksum of a string (R134 to R136) -/

theorem crcFeedIdle_seq (v : Word) (s : State) : (crcFeedIdle v s).seq = s.seq := by
  rw [crcFeedIdle_eq]

/-- R134, R135: the error bit is set by a code above 255 and stays set. -/
theorem crcFeedIdle_crcErr_eq_false_iff (v : Word) (s : State) :
    (crcFeedIdle v s).crcErr = false ↔ s.crcErr = false ∧ v.toNat ≤ 255 := by
  unfold crcFeedIdle
  split
  · simp_all
  · split <;> simp_all

theorem crcFeedIdle_crcAcc {v : Word} {s : State} (h : s.crcErr = false) (hv : v.toNat ≤ 255) :
    (crcFeedIdle v s).crcAcc = crcStep s.crcAcc (BitVec.ofNat 8 v.toNat) := by
  simp [crcFeedIdle, h, Nat.not_lt.mpr hv, BitVec.extractLsb']

/-- R134: a string of codes fed to an idle block. -/
def crcFeedAll (codes : List Word) (s : State) : State := codes.foldl (fun u v => crcFeedIdle v u) s

theorem execAll_crcFeed (codes : List Word) {s : State} (h : s.seq = .idle) :
    execAll (codes.map .crcFeed) s = .next (crcFeedAll codes s) := by
  induction codes generalizing s with
  | nil => rfl
  | cons v codes ih =>
    have hv : exec (.crcFeed v) s = .next (crcFeedIdle v s) := by
      simp [exec, execCrcFeed, busy_eq_false h]
    simp only [List.map_cons, execAll, hv]
    exact ih ((crcFeedIdle_seq v s).trans h)

theorem crcFeedAll_crcErr_eq_false_iff (codes : List Word) (s : State) :
    (crcFeedAll codes s).crcErr = false ↔ s.crcErr = false ∧ ∀ c ∈ codes, c.toNat ≤ 255 := by
  induction codes generalizing s with
  | nil => simp [crcFeedAll]
  | cons v codes ih =>
    rw [show crcFeedAll (v :: codes) s = crcFeedAll codes (crcFeedIdle v s) from rfl, ih,
      crcFeedIdle_crcErr_eq_false_iff, List.forall_mem_cons, and_assoc]

/-- R133: codes of at most 255 are all taken into the accumulator, in order. -/
theorem crcFeedAll_crcAcc {codes : List Word} {s : State} (h : s.crcErr = false) (hc : ∀ c ∈ codes, c.toNat ≤ 255) :
    (crcFeedAll codes s).crcAcc = (codes.map fun c => BitVec.ofNat 8 c.toNat).foldl crcStep s.crcAcc := by
  induction codes generalizing s with
  | nil => rfl
  | cons v codes ih =>
    obtain ⟨hv, hc⟩ := List.forall_mem_cons.mp hc
    have herr := (crcFeedIdle_crcErr_eq_false_iff v s).mpr ⟨h, hv⟩
    rw [List.map_cons, List.foldl_cons, ← crcFeedIdle_crcAcc h hv]
    exact ih herr hc

/-- R130: CRC.INIT on an idle block, its stage taking no time, leaves no error and accumulator 0. -/
theorem exec_crcInit_now {s : State} (h : s.seq = .idle) (h0 : s.nextStall = 0) :
    ∃ u, exec .crcInit s = .next u ∧ u.seq = .idle ∧ u.crcErr = false ∧ u.crcAcc = 0 :=
  ⟨_, congrArg Host.Outcome.next (issue_one_now h h0 rfl rfl), rfl, rfl, rfl⟩

/-- Settles O9: CRC.INIT starts from no error and accumulator 0, and each feed of a code up to 255 is one step. -/
theorem checksumOfAString : Obligations.ChecksumOfAString := by
  intro s codes hidle h0
  obtain ⟨u, hinit, hseq, herr, hacc⟩ := exec_crcInit_now hidle h0
  have hfeed := crcFeedAll_crcErr_eq_false_iff codes u
  refine ⟨crcFeedAll codes u, ?_, hfeed.trans (and_iff_right herr), fun h => ?_⟩
  · simp only [execAll, hinit]
    exact execAll_crcFeed codes hseq
  · obtain ⟨-, hc⟩ := hfeed.mp h
    rw [State.readCsr, State.crcHexWord, crcFeedAll_crcAcc herr hc, hacc, crc16]

end Sys2Proof.Machine
end

section
/-! SUPPORT. WAIT ends (30_encoding.md R91, 70_reset_and_hazards.md R291). -/

namespace Sys2Proof.Machine

/-- R108: the stages the running command still has to end. -/
def State.pending (s : State) : Nat :=
  match s.seq with
  | .idle => 0
  | .run _ _ rest _ => rest.length + 1

theorem pending_idle {s : State} (h : s.seq = .idle) : s.pending = 0 := by
  simp [State.pending, h]

theorem pending_run {s : State} {cmd : Instr} {st : Stage} {rest : List Stage} {left : Nat}
    (h : s.seq = .run cmd st rest left) : s.pending = rest.length + 1 := by
  simp [State.pending, h]

theorem pending_le_three {s : State} (h : s.seqOk = true) : s.pending ≤ 3 := by
  cases hs : s.seq with
  | idle => simp [pending_idle hs]
  | run cmd st rest left =>
    obtain ⟨hsuffix, -⟩ := (seqOk_run hs).mp h
    have hcmd : (stagesOf cmd).length ≤ 3 := by cases cmd <;> simp [stagesOf]
    exact pending_run hs ▸ hsuffix.length_le.trans hcmd

theorem finishStage_inputs (s : State) : (finishStage s).inputs = s.inputs := by
  unfold finishStage
  split
  · rfl
  · next cmd st rest left _ =>
    obtain ⟨-, -, -, -, -, -, -, -, -, -, hin, -⟩ := runStages_outside cmd st rest s
    exact hin

/-- R291: the sequencer's step on a busy block leaves fewer stages. -/
theorem finishStage_pending {s : State} (h : s.seq ≠ .idle) : (finishStage s).pending < s.pending := by
  cases hs : s.seq with
  | idle => exact absurd hs h
  | run cmd st rest left =>
    rw [pending_run hs, finishStage, hs]
    rcases runStages_seq cmd st rest s with ht | ⟨st', rest', left', ht, hsuffix⟩
    · simp [pending_idle ht]
    · have hlen := hsuffix.length_le
      rw [List.length_cons] at hlen
      simp only [pending_run ht]
      omega

theorem step_wait {s : State} {rest : List Input} (h : s.inputs = .host .wait :: rest) :
    step s = .next (if s.busy then finishStage s else waitRead { s with inputs := rest }) := by
  simp [step, h]

/-- WAIT is over: the host has gone on to `rest`, the block is idle, and STATUS has been read with BUSY = 0. -/
def WaitOver (rest : List Input) (t : State) : Prop :=
  t.inputs = rest ∧ t.seq = .idle ∧ t.rdata = t.readCsr .status ∧ t.rdata.getLsbD 0 = false

theorem waitOver_waitRead {s : State} (h : s.seq = .idle) (rest : List Input) :
    WaitOver rest (waitRead { s with inputs := rest }) := by
  refine ⟨rfl, h, rfl, ?_⟩
  show s.statusWord.getLsbD 0 = false
  rw [getLsbD_statusWord, busy_eq_false h]
  rfl

theorem run_succ {s u : State} (h : step s = .next u) (n : Nat) :
    Host.Core.run Sys2Proof.core (n + 1) s = Host.Core.run Sys2Proof.core n u := by
  simp only [Host.Core.run, core, h]

/-- R91, R291: each step at WAIT ends a stage, and one more reads STATUS. -/
theorem wait_ends {s : State} {rest : List Input} (hin : s.inputs = .host .wait :: rest) :
    ∃ n t, n ≤ s.pending + 1 ∧ Host.Core.run Sys2Proof.core n s = .next t ∧ WaitOver rest t := by
  by_cases hs : s.seq = .idle
  · refine ⟨1, _, by omega, ?_, waitOver_waitRead hs rest⟩
    rw [run_succ (step_wait hin), busy_eq_false hs]
    rfl
  · have hless := finishStage_pending hs
    obtain ⟨n, t, hn, hrun, hover⟩ := wait_ends ((finishStage_inputs s).trans hin)
    refine ⟨n + 1, t, by omega, ?_, hover⟩
    rw [run_succ (step_wait hin), busy_eq_true hs]
    exact hrun
termination_by s.pending

/-- Settles O47: a legal sequencer has at most three stages left. -/
theorem waitEnds : Obligations.WaitEnds := by
  intro s rest hs hin
  obtain ⟨n, t, hn, hrun, hover⟩ := wait_ends hin
  have hthree := pending_le_three hs
  exact ⟨n, t, by omega, hrun, hover⟩

end Sys2Proof.Machine
end

section
/-! SUPPORT. What an instruction leaves alone (40_control.md R102), and what it reports (R101). -/

namespace Sys2Proof.Machine

/-! ## The frame registers and a stage -/

/-- `t` with the frame's registers (R100, R101, R105) as they stand in `f`. -/
def State.putFrame (f t : State) : State :=
  { t with done := f.done, err := f.err, errInfo := f.errInfo, seq := f.seq, stalls := f.stalls, started := f.started }

/-- A stage's end with its state changed by `g`. -/
def StageEnd.map (g : State → State) : StageEnd → StageEnd
  | .ok s => .ok (g s)
  | .abort code info s => .abort code info (g s)

theorem threshStage_putFrame (f s : State) : threshStage (f.putFrame s) = (threshStage s).map f.putFrame := by
  by_cases h : s.window.w * s.window.h ≤ s.capGrid.toNat
  · rw [threshStage_fits h]
    exact threshStage_fits (s := f.putFrame s) h
  · have h := Nat.lt_of_not_le h
    rw [threshStage_overflow h]
    exact threshStage_overflow (s := f.putFrame s) h

theorem packStage_putFrame (o : Orient) (f s : State) :
    packStage o (f.putFrame s) = (packStage o s).map f.putFrame := by
  by_cases h : ceil8 (outDims o s.gridW.toNat s.gridH.toNat).1 * (outDims o s.gridW.toNat s.gridH.toNat).2
      ≤ s.capPack.toNat
  · rw [packStage_fits h]
    exact packStage_fits (s := f.putFrame s) h
  · have h := Nat.lt_of_not_le h
    rw [packStage_overflow h]
    exact packStage_overflow (s := f.putFrame s) h

theorem writePayload_putFrame (p : List Byte) (f s : State) :
    writePayload p (f.putFrame s) = (writePayload p s).map f.putFrame := by
  by_cases h : p.length ≤ s.capOut.toNat
  · rw [writePayload_fits h]
    exact writePayload_fits (s := f.putFrame s) h
  · have h := Nat.lt_of_not_le h
    rw [writePayload_overflow h]
    exact writePayload_overflow (s := f.putFrame s) h

theorem z64Finish_putFrame (r : Option (List Byte)) (f s : State) :
    z64Finish r (f.putFrame s) = (z64Finish r s).map f.putFrame := by
  cases r with
  | none => rfl
  | some d =>
    simp only [z64Finish, writePayload_putFrame]
    cases writePayload (z64Payload (base64 d)) s <;> rfl

/-- R108: a stage neither reads nor writes the frame's registers. -/
theorem runStage_putFrame (st : Stage) (f s : State) : runStage st (f.putFrame s) = (runStage st s).map f.putFrame := by
  match st with
  | .crcInit | .loadGrid | .loadPack => rfl
  | .thresh => exact threshStage_putFrame f s
  | .pack o => exact packStage_putFrame o f s
  | .enc .z64 => exact z64Finish_putFrame _ f s
  | .enc .acs => exact writePayload_putFrame _ f s

/-- R105: a stage that succeeds leaves the frame's registers as they were. -/
theorem runStage_frame {st : Stage} {s s1 : State} (h : runStage st s = .ok s1) : s1 = s.putFrame s1 := by
  have hf : runStage st s = (runStage st s).map s.putFrame := runStage_putFrame st s s
  rw [h] at hf
  exact StageEnd.ok.inj hf

/-! ## The destination of an instruction (R102) -/

theorem SameGrid.trans {s t u : State} (a : SameGrid s t) (b : SameGrid t u) : SameGrid s u := by
  unfold SameGrid at *
  simp_all

theorem SamePack.trans {s t u : State} (a : SamePack s t) (b : SamePack t u) : SamePack s u := by
  unfold SamePack at *
  simp_all

theorem SameOut.trans {s t u : State} (a : SameOut s t) (b : SameOut t u) : SameOut s u := by
  unfold SameOut at *
  simp_all

theorem SameCrc.trans {s t u : State} (a : SameCrc s t) (b : SameCrc t u) : SameCrc s u := by
  unfold SameCrc at *
  simp_all

/-- R102: from `s` to `t` nothing has changed but the report and what one of the stages `sts` writes. -/
structure OnlyWrites (sts : List Stage) (s t : State) : Prop where
  outside : SameOutside s t
  grid : .thresh ∉ sts → SameGrid s t
  gridValid : .thresh ∉ sts → .loadGrid ∉ sts → t.gridValid = s.gridValid
  pack : (∀ o, .pack o ∉ sts) → SamePack s t
  packValid : (∀ o, .pack o ∉ sts) → .loadPack ∉ sts → t.packValid = s.packValid
  out : (∀ f, .enc f ∉ sts) → SameOut s t
  crc : .crcInit ∉ sts → .enc .z64 ∉ sts → SameCrc s t

namespace OnlyWrites

variable {sts : List Stage} {s t u : State}

theorem refl (sts : List Stage) (s : State) : OnlyWrites sts s s :=
  ⟨.refl s, fun _ => ⟨rfl, rfl, rfl, rfl⟩, fun _ _ => rfl, fun _ => ⟨rfl, rfl, rfl, rfl, rfl⟩, fun _ _ => rfl,
    fun _ => ⟨rfl, rfl, rfl⟩, fun _ _ => ⟨rfl, rfl⟩⟩

theorem trans (a : OnlyWrites sts s t) (b : OnlyWrites sts t u) : OnlyWrites sts s u where
  outside := a.outside.trans b.outside
  grid h := (a.grid h).trans (b.grid h)
  gridValid h h' := (b.gridValid h h').trans (a.gridValid h h')
  pack h := (a.pack h).trans (b.pack h)
  packValid h h' := (b.packValid h h').trans (a.packValid h h')
  out h := (a.out h).trans (b.out h)
  crc h h' := (a.crc h h').trans (b.crc h h')

/-- The frame's registers are outside every destination. -/
theorem putFrame (h : OnlyWrites sts s t) (f : State) : OnlyWrites sts s (f.putFrame t) :=
  ⟨h.outside, h.grid, h.gridValid, h.pack, h.packValid, h.out, h.crc⟩

theorem runStage {st : Stage} (hst : st ∈ sts) (s : State) : OnlyWrites sts s (runStage st s).state where
  outside := runStage_outside st s
  grid h := runStage_grid (fun e => h (e ▸ hst)) s
  gridValid h h' := runStage_gridValid (fun e => h (e ▸ hst)) (fun e => h' (e ▸ hst)) s
  pack h := runStage_pack (by cases st with | pack o => exact absurd hst (h o) | _ => rfl) s
  packValid h h' :=
    runStage_packValid (by cases st with | pack o => exact absurd hst (h o) | _ => rfl) (fun e => h' (e ▸ hst)) s
  out h := runStage_out (by cases st with | enc f => exact absurd hst (h f) | _ => rfl) s
  crc h h' := runStage_crc (fun e => h (e ▸ hst)) (fun e => h' (e ▸ hst)) s

theorem enter {st : Stage} (hst : st ∈ sts) (cmd : Instr) (rest : List Stage) (s : State) :
    OnlyWrites sts s (s.enter cmd st rest) := by
  rw [enter_eq]
  refine ⟨.refl s, fun h => ⟨rfl, rfl, rfl, if_neg ?_⟩, fun _ _ => rfl, fun _ => ⟨rfl, rfl, rfl, rfl, rfl⟩,
    fun _ _ => rfl, fun _ => ⟨rfl, rfl, rfl⟩, fun _ h => ⟨if_neg ?_, if_neg ?_⟩⟩ <;>
    exact fun e => h (e ▸ hst)

theorem runStages {st : Stage} {rest : List Stage} (h : (st :: rest) ⊆ sts) (cmd : Instr) (s : State) :
    OnlyWrites sts s (runStages cmd st rest s) := by
  have hend : ∀ st r u e, OnlyWrites sts s u ∧ (st :: r) ⊆ sts → Machine.runStage st u = e →
      OnlyWrites sts s e.state := by
    rintro st r u e ⟨hu, hsub⟩ rfl
    exact hu.trans (runStage (hsub (List.mem_cons_self ..)) u)
  have hnext : ∀ st st' r u u1, OnlyWrites sts s u ∧ (st :: st' :: r) ⊆ sts → Machine.runStage st u = .ok u1 →
      OnlyWrites sts s (u1.enter cmd st' r) ∧ (st' :: r) ⊆ sts := by
    intro st st' r u u1 hu hr
    have hsub := List.Subset.trans (List.subset_cons_self st (st' :: r)) hu.2
    exact ⟨(hend _ _ _ _ hu hr).trans (enter (hsub (List.mem_cons_self ..)) cmd r u1), hsub⟩
  refine runStages_induct (P := fun st r u => OnlyWrites sts s u ∧ (st :: r) ⊆ sts) (Q := OnlyWrites sts s)
    ?_ ?_ ?_ ?_ rest st s ⟨.refl sts s, h⟩
  · intro st r u code info u1 hu hr; exact (hend _ _ _ _ hu hr).putFrame (u1.report code info).complete
  · intro st u u1 hu hr; exact (hend _ _ _ _ hu hr).putFrame u1.complete
  · intro st st' r u u1 hu hr; exact (hnext _ _ _ _ _ hu hr).1
  · intro st st' r u u1 hu hr; exact hnext _ _ _ _ _ hu hr

theorem accept {st : Stage} {rest : List Stage} (h : (st :: rest) ⊆ sts) (cmd : Instr) (s : State) :
    OnlyWrites sts s (s.accept cmd st rest) := by
  have he := enter (h (List.mem_cons_self ..)) cmd rest s
  unfold State.accept
  split
  · exact he.trans (runStages h cmd _)
  · exact he

end OnlyWrites

/-- R102: the stages whose destinations an instruction has; CRC.FEED writes what CRC.INIT writes. -/
def writtenBy : Instr → List Stage
  | .crcFeed _ => [.crcInit]
  | i => stagesOf i

theorem writtenBy_command {i : Instr} (h : ∀ v, i ≠ .crcFeed v) : writtenBy i = stagesOf i := by
  unfold writtenBy
  split
  · next v => exact absurd rfl (h v)
  · rfl

/-- R102: on an idle block an instruction changes its destination and the report. -/
theorem exec_idle_onlyWrites {i : Instr} {s t : State} (hi : s.seq = .idle) (hr : i ≠ .softReset)
    (h : exec i s = .next t) : OnlyWrites (writtenBy i) s t := by
  have hrefl := OnlyWrites.refl (writtenBy i) s
  rcases exec_cases i s with ⟨e, -⟩ | ⟨v, rfl, e⟩ | ⟨-, hf, check, st, rest, hs, e, -⟩
  · exact absurd e hr
  · obtain rfl := Host.Outcome.next.inj (h.symm.trans e)
    rw [busy_eq_false hi, if_neg Bool.false_ne_true, crcFeedIdle_eq]
    exact ⟨hrefl.outside, hrefl.grid, hrefl.gridValid, hrefl.pack, hrefl.packValid, hrefl.out,
      fun h => absurd (List.mem_singleton_self _) h⟩
  · obtain rfl := Host.Outcome.next.inj (h.symm.trans e)
    rcases issue_cases i check s hs with ⟨hb, -⟩ | ⟨-, code, info, -, e⟩ | ⟨-, -, e⟩
    · exact absurd hi hb
    · rw [e]
      exact hrefl.putFrame (s.rejected code info)
    · rw [e]
      refine (hrefl.putFrame s.clearReport).trans (.accept ?_ i s.clearReport)
      rw [writtenBy_command hf, hs]
      exact List.Subset.refl _

/-- R106: on a busy block an instruction other than SOFT.RESET is dropped. -/
theorem exec_busy {i : Instr} {s : State} (hb : s.seq ≠ .idle) (hr : i ≠ .softReset) :
    exec i s = .next { s with conflict := true } := by
  rcases exec_cases i s with ⟨e, -⟩ | ⟨v, -, e⟩ | ⟨-, -, check, -, -, -, e, -⟩
  · exact absurd e hr
  · rw [e, busy_eq_true hb]
    rfl
  · rw [e, issue_busy hb]

theorem not_mem_writtenBy {i : Instr} {st : Stage} (h : st ∉ stagesOf i) (hc : st ≠ .crcInit) : st ∉ writtenBy i := by
  unfold writtenBy
  split
  · simpa using hc
  · exact h

/-- R108: LOAD.GRID, LOAD.PACK and CRC.INIT alone have the steps of these names. -/
theorem own_step_mem_writtenBy (i : Instr) :
    (.loadGrid ∈ writtenBy i → i = .loadGrid) ∧ (.loadPack ∈ writtenBy i → i = .loadPack) ∧
    (.crcInit ∈ writtenBy i → i = .crcInit ∨ ∃ v, i = .crcFeed v) := by
  cases i <;> simp [writtenBy, stagesOf]

/-- Settles O45: an idle block runs stages that each keep what lies outside their own destination; a busy one drops
the instruction. -/
theorem instructionsKeepWhatTheyDoNotOwn : Obligations.InstructionsKeepWhatTheyDoNotOwn := by
  intro i s t hr h
  by_cases hi : s.seq = .idle
  · obtain ⟨houtside, hgrid, hgridValid, hpack, hpackValid, hout, hcrc⟩ := exec_idle_onlyWrites hi hr h
    obtain ⟨hwidth, hpixLen, hblack, hnotrim, hdoneIe, hpix, hcapPix, hcapGrid, hcapPack, hcapOut, hinputs, hrdata,
      hconflict⟩ := houtside
    obtain ⟨hloadGrid, hloadPack, hcrcInit⟩ := own_step_mem_writtenBy i
    refine ⟨fun _ => hconflict, fun hb => absurd hi hb, ⟨hwidth, hpixLen, hblack, hnotrim, hdoneIe, hpix, hcapPix,
      hcapGrid, hcapPack, hcapOut, hinputs, hrdata⟩, fun hs => ?_, fun hs => ?_, fun hs => ?_, fun hi hs hf => ?_⟩
    · have hs := not_mem_writtenBy hs nofun
      obtain ⟨hcells, hw, hh, hempty⟩ := hgrid hs
      exact ⟨hcells, hw, hh, hempty, fun hi => hgridValid hs (mt hloadGrid hi)⟩
    · have hs := fun o => not_mem_writtenBy (hs o) nofun
      obtain ⟨hbytes, hlen, hrow, hw, hh⟩ := hpack hs
      exact ⟨hbytes, hlen, hrow, hw, hh, fun hi => hpackValid hs (mt hloadPack hi)⟩
    · exact hout fun f => not_mem_writtenBy (hs f) nofun
    · exact hcrc (fun h => (hcrcInit h).elim hi fun ⟨v, e⟩ => hf v e) (not_mem_writtenBy hs nofun)
  · obtain rfl := Host.Outcome.next.inj (h.symm.trans (exec_busy hi hr))
    simp [hi]

end Sys2Proof.Machine
end

section
/-! SUPPORT. A host that obeys the busy window never sees CONFLICT (40_control.md R106, 70_reset_and_hazards.md
R290). -/

namespace Sys2Proof.Machine

/-! ## The hazard rule -/

/-- R290: a program that is safe behind a running command is safe behind none. -/
theorem obeysHazards_mono {l : List Input} (h : obeysHazards true l = true) : ∀ b, obeysHazards b l = true
  | true => h
  | false => by
    induction l with
    | nil => rfl
    | cons x r ih =>
      match x with
      | .hwReset | .powerOn | .host .wait => exact h
      | .host (.load n a) =>
        simp only [obeysHazards, Bool.not_true, Bool.false_or, Bool.and_eq_true] at h
        exact ih h.2
      | .host (.store n a v) =>
        unfold obeysHazards at h ⊢
        split_ifs at h ⊢
        · exact h
        · cases h
        · exact ih h
        · cases h

/-- R290: the stores of such a program: SOFT.RESET, a store to STATUS or IRQ_EN, or any store where no command runs;
after a command word one may run. -/
theorem obeysHazards_store {b : Bool} {n : Width} {a v : Word} {r : List Input}
    (h : obeysHazards b (.host (.store n a v) :: r) = true) :
    (a = Csr.cmd.offset ∧ v = encodeWord .softReset ∧ obeysHazards false r = true) ∨
    ((∃ c : Csr, (c = .status ∨ c = .irqEn) ∧ a = c.offset) ∧ obeysHazards b r = true) ∨
    (b = false ∧ obeysHazards (decide (a = Csr.cmd.offset)) r = true) := by
  unfold obeysHazards at h
  split_ifs at h with hcmd hreset hexempt
  · exact .inl ⟨hcmd, hreset, h⟩
  · rw [Bool.and_eq_true, Bool.not_eq_true'] at h
    exact .inr (.inr ⟨h.1, by simpa [hcmd] using h.2⟩)
  · exact .inr (.inl ⟨by simpa using hexempt, h⟩)
  · rw [Bool.and_eq_true, Bool.not_eq_true'] at h
    obtain ⟨rfl, h⟩ := h
    exact .inr (.inr ⟨rfl, by simpa [hcmd] using h⟩)

/-- What O48 keeps: CONFLICT = 0, and what the host does next obeys the busy window. -/
def HazardFree (s : State) : Prop := s.conflict = false ∧ obeysHazards s.busy s.inputs = true

theorem HazardFree.runStages {s : State} (h : HazardFree s) {cmd : Instr} {st : Stage} {rest : List Stage} {left : Nat}
    (hs : s.seq = .run cmd st rest left) : HazardFree (runStages cmd st rest s) := by
  obtain ⟨-, -, -, -, -, -, -, -, -, -, hinputs, -, hconflict⟩ := runStages_outside cmd st rest s
  have hbusy : s.busy = true := by simp [State.busy, hs]
  obtain ⟨hc, hobeys⟩ := h
  rw [hbusy] at hobeys
  exact ⟨hconflict.trans hc, hinputs ▸ obeysHazards_mono hobeys _⟩

theorem HazardFree.finishStage {s : State} (h : HazardFree s) : HazardFree (finishStage s) := by
  unfold Machine.finishStage
  split
  · exact h
  · next hs => exact h.runStages hs

theorem HazardFree.afterAccess {s : State} (h : HazardFree s) : HazardFree (afterAccess s) := by
  unfold Machine.afterAccess
  split
  · exact h
  · next hs =>
    split
    · exact h.runStages hs
    · have hbusy : s.busy = true := by simp [State.busy, hs]
      obtain ⟨hc, hobeys⟩ := h
      rw [hbusy] at hobeys
      exact ⟨hc, hobeys⟩

theorem hazardFree_after {ran : Bool} {o : Host.Outcome State Fault Refusal} {t : State} (h : after ran o = .next t)
    (ho : ∀ m, o = .next m → HazardFree m) : HazardFree t := by
  obtain ⟨m, hm, rfl⟩ := after_next h
  split
  · exact (ho m hm).afterAccess
  · exact ho m hm

/-! ## The accesses -/

theorem HazardFree.readPlace {s : State} (h : HazardFree s) (n : Nat) (p : Place) : HazardFree (readPlace n p s) := by
  rcases readPlace_cases n p s with ⟨-, e⟩ | ⟨-, e⟩ <;> rw [e] <;> exact h

theorem HazardFree.stepLoad {s m : State} {n : Width} {a : Word} (h : HazardFree s) (hm : stepLoad n a s = .next m) :
    HazardFree m := by
  unfold Machine.stepLoad at hm
  split at hm
  · cases hm
  · next p _ =>
    obtain rfl := Host.Outcome.next.inj hm
    exact h.readPlace n.bytes p

theorem hazardFree_resetBlock {s : State} (h : obeysHazards false s.inputs = true) : HazardFree s.resetBlock := by
  refine ⟨rfl, ?_⟩
  rw [State.resetBlock, endCommand_eq]
  exact h

/-- R63: a store that reaches a CSR's offset is a word store. -/
theorem word_of_place_offset {s : State} {n : Width} {c : Csr} {p : Place} (h : place s n c.offset = .ok p) :
    n = .word := by
  obtain ⟨hlt, -⟩ := csr_offset_small c
  obtain ⟨c', rfl⟩ := place_low h (by omega)
  exact (place_csr h).2

/-- A store that answers a next state reaches a place. -/
theorem place_of_stepStore {s m : State} {n : Width} {a v : Word} (h : stepStore n a v s = .next m) :
    ∃ p, place s n a = .ok p := by
  cases hp : place s n a with
  | ok p => exact ⟨p, rfl⟩
  | error e => simp [stepStore, storeKind, hp] at h

/-- R106: a store to STATUS or IRQ_EN is performed, busy or idle. -/
theorem stepStore_exempt (s : State) {c : Csr} (hc : c = .status ∨ c = .irqEn) (v : Word) :
    stepStore .word c.offset v s = .next (s.writeCsr v c) := by
  rcases hc with rfl | rfl <;> simp [stepStore, storeKind_csr, writePlace, Place.exempt, performWrite]

theorem HazardFree.exempt {s : State} (h : HazardFree s) {c : Csr} (hc : c = .status ∨ c = .irqEn) (v : Word) :
    HazardFree (s.writeCsr v c) := by
  obtain ⟨hconflict, hobeys⟩ := h
  rcases hc with rfl | rfl
  · exact ⟨by simp [State.writeCsr, hconflict], hobeys⟩
  · exact ⟨hconflict, hobeys⟩

theorem performWrite_conflict {s : State} (h : s.conflict = false) (n : Nat) (p : Place) (v : Word) :
    (performWrite n p v s).conflict = false := by
  cases p with
  | csr c =>
    cases c with
    | status => simp [performWrite, State.writeCsr, h]
    | _ => exact h
  | _ => exact h

/-- R106: on an idle block no access sets CONFLICT, and none touches the host's program. -/
theorem access_idle {u m : State} (hi : u.seq = .idle) (h : Access u m) (hc : u.conflict = false) :
    m.conflict = false ∧ m.inputs = u.inputs := by
  cases h with
  | read n a p _ => rcases readPlace_cases n.bytes p u with ⟨-, e⟩ | ⟨-, e⟩ <;> rw [e] <;> exact ⟨hc, rfl⟩
  | instr i m h =>
    by_cases hr : i = .softReset
    · subst hr
      obtain rfl := Host.Outcome.next.inj h
      exact ⟨rfl, by rw [State.resetBlock, endCommand_eq]; rfl⟩
    · obtain ⟨-, -, -, -, -, -, -, -, -, -, hinputs, -, hconflict⟩ := (exec_idle_onlyWrites hi hr h).outside
      exact ⟨hconflict.trans hc, hinputs⟩
  | badWord wd =>
    rw [badCommand_idle hi]
    exact ⟨hc, rfl⟩
  | write n a p v _ =>
    obtain ⟨-, hinputs, -⟩ := performWrite_frame n.bytes p v u
    rw [writePlace_idle hi]
    exact ⟨performWrite_conflict hc n.bytes p v, hinputs⟩

/-- R88: a store that is an instruction goes to CMD, or to CRC_DATA and is CRC.FEED. -/
theorem storeKind_instr {s : State} {n : Width} {a v : Word} {i : Instr} (h : storeKind s n a v = .ok (.instr i)) :
    a = Csr.cmd.offset ∨ i = .crcFeed v := by
  unfold storeKind at h
  split at h
  · cases h
  · cases h
  · next hp => exact .inl (place_csr hp).1
  · split at h
    · next hd =>
      cases hd
      cases h
      exact .inr rfl
    · cases h
  · cases h

/-- R101: on an idle block a store that is not to CMD starts nothing. -/
theorem stepStore_idle {s m : State} {n : Width} {a v : Word} (hi : s.seq = .idle) (ha : a ≠ Csr.cmd.offset)
    (h : stepStore n a v s = .next m) : m.seq = .idle := by
  unfold stepStore at h
  split at h
  · cases h
  · next i hk =>
    obtain rfl := (storeKind_instr hk).resolve_left ha
    obtain rfl := Host.Outcome.next.inj h
    rw [busy_eq_false hi]
    exact (crcFeedIdle_seq v s).trans hi
  · next wd _ =>
    obtain rfl := Host.Outcome.next.inj h
    rw [badCommand_idle hi]
    exact hi
  · next p _ =>
    obtain rfl := Host.Outcome.next.inj h
    rw [writePlace_idle hi]
    exact (performWrite_frame n.bytes p v s).1.trans hi

theorem hazardFree_stepStore {s m : State} {n : Width} {a v : Word} (hc : s.conflict = false)
    (ho : obeysHazards s.busy (.host (.store n a v) :: s.inputs) = true) (hm : stepStore n a v s = .next m) :
    HazardFree m := by
  obtain ⟨p, hp⟩ := place_of_stepStore hm
  rcases obeysHazards_store ho with ⟨rfl, rfl, hrest⟩ | ⟨⟨c, hcsr, rfl⟩, hrest⟩ | ⟨hb, hrest⟩
  · obtain rfl := word_of_place_offset hp
    have hreset := stepStore_port (.inl rfl) (decodeWrite_encode .softReset) s
    obtain rfl := Host.Outcome.next.inj (hreset.symm.trans hm)
    exact hazardFree_resetBlock hrest
  · obtain rfl := word_of_place_offset hp
    obtain rfl := Host.Outcome.next.inj ((stepStore_exempt s hcsr v).symm.trans hm)
    exact HazardFree.exempt ⟨hc, hrest⟩ hcsr v
  · have hi : s.seq = .idle := by
      by_contra hn
      simp [busy_eq_true hn] at hb
    obtain ⟨hconflict, hinputs⟩ := access_idle hi (stepStore_next hm) hc
    refine ⟨hconflict, hinputs ▸ ?_⟩
    by_cases ha : a = Csr.cmd.offset
    · rw [decide_eq_true ha] at hrest
      exact obeysHazards_mono hrest _
    · rw [busy_eq_false (stepStore_idle hi ha hm), ← decide_eq_false ha]
      exact hrest

/-- Settles O48: while a command runs the program makes exempt accesses alone, and on an idle block no access sets
CONFLICT; a program that is safe behind a running command stays safe when the command ends. -/
theorem hazardFreeHostSeesNoConflict : Obligations.HazardFreeHostSeesNoConflict := by
  intro s t hc ho h
  unfold step at h
  split at h
  · obtain rfl := Host.Outcome.next.inj h
    exact HazardFree.finishStage ⟨hc, ho⟩
  · next r hin =>
    obtain rfl := Host.Outcome.next.inj h
    rw [hin] at ho
    exact hazardFree_resetBlock (s := { s with inputs := r }) ho
  · next r hin =>
    obtain rfl := Host.Outcome.next.inj h
    rw [hin] at ho
    exact ⟨rfl, ho⟩
  · next r hin =>
    obtain rfl := Host.Outcome.next.inj h
    cases hb : s.busy with
    | true => exact HazardFree.finishStage ⟨hc, ho⟩
    | false =>
      rw [hin] at ho
      refine ⟨hc, ?_⟩
      show obeysHazards s.busy r = true
      rw [hb]
      exact ho
  · next n a r hin =>
    rw [hin] at ho
    simp only [obeysHazards, Bool.and_eq_true] at ho
    exact hazardFree_after h fun m hm => HazardFree.stepLoad (s := { s with inputs := r }) ⟨hc, ho.2⟩ hm
  · next n a v r hin =>
    rw [hin] at ho
    exact hazardFree_after h fun m hm => hazardFree_stepStore (s := { s with inputs := r }) hc ho hm

end Sys2Proof.Machine
end

section
/-! SUPPORT. The busy window: what a store and a load do while a command runs (40_control.md R106, R107). -/

namespace Sys2Proof.Machine

/-! ## Stores while BUSY = 1 (R106) -/

theorem badCommand_busy {s : State} (h : s.seq ≠ .idle) (wd : Word) :
    badCommand wd s = { s with conflict := true } := by
  simp [badCommand, busy_eq_true h, State.dropWrite]

theorem writePlace_busy {s : State} (h : s.seq ≠ .idle) {p : Place} (hp : p.exempt = false) (n : Nat) (v : Word) :
    writePlace n p v s = { s with conflict := true } := by
  simp [writePlace, busy_eq_true h, hp, State.dropWrite]

/-- R64: a store that the bus refuses answers its error. -/
theorem stepStore_error {s : State} {n : Width} {a : Word} {e : BusError} (h : place s n a = .error e) (v : Word) :
    stepStore n a v s = .fault (.busError e a) := by
  simp [stepStore, storeKind, h]

theorem stepStore_out {s : State} {n : Width} {a : Word} {i : Nat} (h : place s n a = .ok (.out i)) (v : Word) :
    stepStore n a v s = .fault (.busError .outWrite a) := by
  simp [stepStore, storeKind, h]

theorem decodeCmd_softReset {v : Word} (h : decodeCmd v = .ok .softReset) : v = 0x000000FF :=
  (decodeCmd_eq_ok h).2.symm

/-- R106: a store to CMD while a command runs is dropped unless its word is that of SOFT.RESET. -/
theorem stepStore_cmd_busy {s : State} (h : s.seq ≠ .idle) {v : Word} (hv : v ≠ 0x000000FF) :
    stepStore .word Csr.cmd.offset v s = .next { s with conflict := true } := by
  cases hd : decodeCmd v with
  | error e => rw [stepStore_badWord hd, badCommand_busy h]
  | ok i =>
    have hi : i ≠ .softReset := fun e => hv (decodeCmd_softReset (e ▸ hd))
    rw [stepStore_port (.inl rfl) hd, exec_busy h hi]

/-- R106: so is every store to a CSR but STATUS and IRQ_EN. -/
theorem stepStore_csr_busy {s : State} (h : s.seq ≠ .idle) {c : Csr} {v : Word} (hs : c ≠ .status) (hi : c ≠ .irqEn)
    (hc : c = .cmd → v ≠ 0x000000FF) : stepStore .word c.offset v s = .next { s with conflict := true } := by
  by_cases hcmd : c = .cmd
  · subst hcmd
    exact stepStore_cmd_busy h (hc rfl)
  · by_cases hdata : c = .crcData
    · subst hdata
      exact (stepStore_port (.inr rfl) rfl s).trans (exec_busy (i := .crcFeed v) h nofun)
    · have hexempt : (Place.csr c).exempt = false := decide_eq_false (not_or.mpr ⟨hs, hi⟩)
      simp only [stepStore, storeKind_csr s hcmd hdata, writePlace_busy h hexempt]

/-- R106: so is every store to PIX, GRID and PACK. -/
theorem stepStore_buffer_busy {s : State} (h : s.seq ≠ .idle) {n : Width} {a : Word} {p : Place} {i : Nat}
    (hpl : place s n a = .ok p) (hp : p = .pix i ∨ p = .grid i ∨ p = .pack i) (v : Word) :
    stepStore n a v s = .next { s with conflict := true } := by
  have hexempt : p.exempt = false := by rcases hp with rfl | rfl | rfl <;> rfl
  simp only [stepStore, storeKind_buffer hpl hp, writePlace_busy h hexempt]

/-- Settles O43: a store is judged by the place it reaches, and an instruction by the frame it runs in. -/
theorem busyBlockDropsWrites : Obligations.BusyBlockDropsWrites := by
  intro s h
  refine ⟨fun i hi => exec_busy h hi, badCommand_busy h, fun n a v p hp => ⟨?_, ?_, ?_, ?_, ?_⟩,
    fun n a v e he => stepStore_error he v⟩
  · intro hout hstatus hirqEn hcmd
    cases p with
    | csr c =>
      obtain ⟨rfl, rfl⟩ := place_csr hp
      exact stepStore_csr_busy h (fun e => hstatus (e ▸ rfl)) (fun e => hirqEn (e ▸ rfl)) fun e => hcmd (e ▸ rfl)
    | pix i => exact stepStore_buffer_busy h hp (.inl rfl) v
    | grid i => exact stepStore_buffer_busy h hp (.inr (.inl rfl)) v
    | pack i => exact stepStore_buffer_busy h hp (.inr (.inr rfl)) v
    | out i => exact absurd rfl (hout i)
  · rintro rfl
    obtain ⟨rfl, rfl⟩ := place_csr hp
    exact stepStore_exempt s (.inl rfl) v
  · rintro rfl
    obtain ⟨rfl, rfl⟩ := place_csr hp
    exact stepStore_exempt s (.inr rfl) v
  · rintro rfl rfl
    obtain ⟨rfl, rfl⟩ := place_csr hp
    exact stepStore_port (.inl rfl) (decodeWrite_encode .softReset) s
  · rintro i rfl
    exact stepStore_out hp v

/-! ## Loads while BUSY = 1 (R107) -/

theorem stepLoad_place {s : State} {n : Width} {a : Word} {p : Place} (h : place s n a = .ok p) :
    stepLoad n a s = .next (readPlace n.bytes p s) := by
  simp [stepLoad, h]

/-- R107: a load of a place that is not open gives its current value. -/
theorem stepLoad_current {s : State} {n : Width} {a : Word} {p : Place} (h : place s n a = .ok p)
    (hp : s.placeOpen p = false) :
    stepLoad n a s = .next { s with rdata := ofBytes (s.placeBytes n.bytes p) } := by
  simp [stepLoad_place h, readPlace, hp]

theorem stepLoad_csr_current {s : State} {c : Csr} (hc : s.csrOpen c = false) :
    stepLoad .word c.offset s = .next { s with rdata := s.readCsr c } := by
  rw [stepLoad_current (place_offset s c) hc]
  simp [State.placeBytes, Width.bytes]

/-- R107: a load of an open place gives a free value. -/
theorem stepLoad_open {s : State} {n : Width} {a : Word} {p : Place} (h : place s n a = .ok p)
    (hp : s.placeOpen p = true) :
    stepLoad n a s =
      .next { s with rdata := ofBytes (bytesOf n.bytes (Config.anyWord s.draws)), draws := s.draws + 1 } := by
  simp [stepLoad_place h, readPlace, hp]

/-- Settles O44: what is open is the destination of the running command, and the checksum's two registers. -/
theorem busyReads : Obligations.BusyReads := by
  intro s n a p hb hp
  refine ⟨fun h => ?_, fun h => ?_, fun h => ?_⟩
  · have hclosed : s.placeOpen p = false := by
      rcases h with ⟨c, hc, rfl⟩ | ⟨i, rfl⟩ | ⟨ho, h⟩ | ⟨ho, h⟩ | ⟨ho, h⟩
      · fin_cases hc <;> rfl
      · rfl
      · rcases h with rfl | rfl | ⟨i, rfl⟩ <;> exact ho
      · rcases h with rfl | rfl | rfl | rfl | ⟨i, rfl⟩ <;> exact ho
      · rcases h with rfl | ⟨i, rfl⟩ <;> exact ho
    exact ⟨_, stepLoad_current hp hclosed, hostReads_placeBytes hp⟩
  · rcases h with rfl | rfl <;>
      obtain ⟨rfl, rfl⟩ := place_csr hp <;>
      exact stepLoad_csr_current rfl
  · refine stepLoad_open hp ?_
    rcases h with rfl | rfl | ⟨ho, h⟩ | ⟨ho, h⟩ | ⟨ho, h⟩
    · exact busy_eq_true hb
    · exact busy_eq_true hb
    · rcases h with rfl | rfl | ⟨i, rfl⟩ <;> exact ho
    · rcases h with rfl | rfl | rfl | rfl | ⟨i, rfl⟩ <;> exact ho
    · rcases h with rfl | ⟨i, rfl⟩ <;> exact ho

end Sys2Proof.Machine
end

section
/-! SUPPORT. What STATUS shows after a command (40_control.md R100, R101, R105). -/

namespace Sys2Proof.Machine

/-- R100: what a CMD write that is not dropped leaves of the last report. -/
def ReportClear (s : State) : Prop := s.done = false ∧ s.err = .none ∧ s.errInfo = 0

/-- R101: a command runs and has reported nothing, or it has ended with DONE = 1. -/
def BusyOrDone (s : State) : Prop := (s.busy = true ∧ ReportClear s) ∨ (s.busy = false ∧ s.done = true)

theorem reportClear_runStage {st : Stage} {s s1 : State} (h : ReportClear s) (hr : runStage st s = .ok s1) :
    ReportClear s1 := by
  rw [runStage_frame hr]
  exact h

theorem reportClear_enter {s : State} (h : ReportClear s) (cmd : Instr) (st : Stage) (rest : List Stage) :
    ReportClear (s.enter cmd st rest) := by
  rw [enter_eq]
  exact h

theorem busyOrDone_enter {s : State} (h : ReportClear s) (cmd : Instr) (st : Stage) (rest : List Stage) :
    BusyOrDone (s.enter cmd st rest) := .inl ⟨rfl, reportClear_enter h cmd st rest⟩

theorem busyOrDone_runStages {s : State} (h : ReportClear s) (cmd : Instr) (st : Stage) (rest : List Stage) :
    BusyOrDone (runStages cmd st rest s) := by
  refine runStages_induct (P := fun _ _ u => ReportClear u) (Q := BusyOrDone) ?_ ?_ ?_ ?_ rest st s h
  · intro _ _ _ _ _ _ _ _; exact .inr ⟨rfl, rfl⟩
  · intro _ _ _ _ _; exact .inr ⟨rfl, rfl⟩
  · intro _ st' r u u1 hu hr; exact busyOrDone_enter (reportClear_runStage hu hr) cmd st' r
  · intro _ st' r u u1 hu hr; exact reportClear_enter (reportClear_runStage hu hr) cmd st' r

theorem busyOrDone_accept {s : State} (h : ReportClear s) (cmd : Instr) (st : Stage) (rest : List Stage) :
    BusyOrDone (s.accept cmd st rest) := by
  unfold State.accept
  split
  · exact busyOrDone_runStages (reportClear_enter h cmd st rest) cmd st rest
  · exact busyOrDone_enter h cmd st rest

/-- R101: what a command written to an idle block shows. -/
theorem busyOrDone_exec {i : Instr} {s t : State} (hp : portOf i = .cmd) (hr : i ≠ .softReset) (hi : s.seq = .idle)
    (h : exec i s = .next t) : BusyOrDone t := by
  rcases exec_cases i s with ⟨e, -⟩ | ⟨v, rfl, -⟩ | ⟨-, -, check, st, rest, hs, e, -⟩
  · exact absurd e hr
  · cases hp
  · obtain rfl := Host.Outcome.next.inj (h.symm.trans e)
    rcases issue_cases i check s hs with ⟨hb, -⟩ | ⟨-, code, info, -, e⟩ | ⟨-, -, e⟩
    · exact absurd hi hb
    · rw [e]
      exact .inr ⟨busy_eq_false hi, rfl⟩
    · rw [e]
      exact busyOrDone_accept ⟨rfl, rfl, rfl⟩ i st rest

/-- Settles O42: a stage ends with DONE = 1 or the next one begins, and only an end reports anything. -/
theorem commandShowsBusyOrDone : Obligations.CommandShowsBusyOrDone := by
  intro i s t hp hr hi h
  have hbusy : (t.readCsr .status).getLsbD 0 = t.busy := (getLsbD_statusWord t 0).trans (by simp)
  have hdone : (t.readCsr .status).getLsbD 1 = t.done := (getLsbD_statusWord t 1).trans (by simp)
  rw [hbusy, hdone]
  exact busyOrDone_exec hp hr hi h

end Sys2Proof.Machine
end

section
/-! SUPPORT. SOFT.RESET (40_control.md R112). -/

namespace Sys2Proof.Machine

/-- R112, R281: a reset draws anew the destination buffers of the command it ends, and keeps the others. -/
theorem endCommand_mem (s : State) : ∃ g p o, s.draws ≤ g ∧ s.draws ≤ p ∧ s.draws ≤ o ∧
    s.endCommand.mem = {
      pix := s.mem.pix
      grid := if s.gridOpen then ⟨[], g⟩ else s.mem.grid
      pack := if s.packOpen then ⟨[], p⟩ else s.mem.pack
      out := if s.outOpen then ⟨[], o⟩ else s.mem.out } := by
  refine ⟨s.draws, s.draws + s.gridOpen.toNat, s.draws + s.gridOpen.toNat + s.packOpen.toNat, le_rfl, by omega,
    by omega, ?_⟩
  unfold State.endCommand
  cases s.gridOpen <;> cases s.packOpen <;> cases s.outOpen <;> rfl

/-- Settles O40: the registers are reset, and the destination of the command that the reset ends is drawn anew. -/
theorem softResetKeepsOnlyTheBuffers : Obligations.SoftResetKeepsOnlyTheBuffers := by
  intro s
  obtain ⟨g, p, o, hg, hp, ho, hmem⟩ := endCommand_mem s
  have hmem : s.resetBlock.mem = _ := hmem
  refine ⟨s.resetBlock, rfl, ?_, ?_⟩
  · rw [State.resetBlock, endCommand_eq]
    rfl
  · rw [hmem]
    refine ⟨rfl, fun h => ?_, fun h => ?_, fun h => ?_, fun h => ?_, fun h => ?_, fun h => ?_, fun hi => ?_,
      fun _ => rfl⟩
    · simp [h]
    · simp [h]
    · simp [h]
    · simp [h, hg]
    · simp [h, hp]
    · simp [h, ho]
    · simp [State.gridOpen, State.packOpen, State.outOpen, hi]

end Sys2Proof.Machine
end

section
/-! SUPPORT. Commands whose stages take no time, stage by stage (40_control.md R104, R105, R108). -/

namespace Sys2Proof.Machine

/-- R108: a stage from its start to its end, apart from the command frame. -/
def Stage.perform (st : Stage) (s : State) : StageEnd := runStage st (stageStart st s)

theorem stageStart_putFrame (st : Stage) (f s : State) :
    stageStart st (f.putFrame s) = f.putFrame (stageStart st s) := by
  simp only [stageStart_eq]
  rfl

theorem Stage.perform_putFrame (st : Stage) (f s : State) :
    st.perform (f.putFrame s) = (st.perform s).map f.putFrame := by
  rw [perform, stageStart_putFrame, runStage_putFrame, perform]

theorem runStage_enter (cmd : Instr) (st : Stage) (rest : List Stage) (s : State) :
    runStage st (s.enter cmd st rest) = (st.perform s).map (s.enter cmd st rest).putFrame :=
  runStage_putFrame st (s.enter cmd st rest) (stageStart st s)

/-- One more stage has started (R48, log 2). -/
def State.stageStarted (f : State) : State := { f with stalls := f.stalls.tail, started := f.started + 1 }

/-- R108: the stages of `cmd` from `st` on, where `st` takes no time: it starts with the frame's registers as in `f`, no
report among them, and everything else as in `v`. -/
def runFrom (cmd : Instr) (st : Stage) (rest : List Stage) (f v : State) : State :=
  runStages cmd st rest ((f.clearReport.putFrame v).enter cmd st rest)

/-- The frame's registers while that stage is in progress. -/
def stageFrame (cmd : Instr) (st : Stage) (rest : List Stage) (f : State) : State :=
  { f.clearReport.stageStarted with seq := .run cmd st rest f.nextStall }

theorem runFrom_stage (cmd : Instr) (st : Stage) (rest : List Stage) (f v : State) :
    runStage st ((f.clearReport.putFrame v).enter cmd st rest) =
      (st.perform v).map (stageFrame cmd st rest f).putFrame := by
  rw [runStage_enter, Stage.perform_putFrame, enter_eq]
  cases st.perform v <;> rfl

/-- The next stage starts with the frame's registers as the one before it left them; `seq` is written anew. -/
theorem enter_after_stage (cmd : Instr) (st st' : Stage) (rest rest' : List Stage) (f w : State) :
    ((stageFrame cmd st rest f).putFrame w).enter cmd st' rest' =
      (f.stageStarted.clearReport.putFrame w).enter cmd st' rest' := by
  rw [enter_eq, enter_eq]
  rfl

/-- R104: an abort ends the command. -/
theorem runFrom_abort {st : Stage} {v w : State} {code : ErrCode} {info : Word} (h : st.perform v = .abort code info w)
    (cmd : Instr) (rest : List Stage) (f : State) :
    runFrom cmd st rest f v = (f.completed.report code info).putFrame w := by
  have hr := runFrom_stage cmd st rest f v
  rw [h] at hr
  exact runStages_abort hr cmd rest

/-- R105: so does the success of the last stage. -/
theorem runFrom_last {st : Stage} {v w : State} (h : st.perform v = .ok w) (cmd : Instr) (f : State) :
    runFrom cmd st [] f v = f.completed.putFrame w := by
  rw [runFrom, runStages_last, runFrom_stage, h]
  rfl

/-- R108: the success of another stage starts the next one. -/
theorem runFrom_next {st : Stage} {v w : State} (h : st.perform v = .ok w) {f : State}
    {l : List Nat} (hl : f.stalls.tail = 0 :: l) (cmd : Instr) (st' : Stage) (rest : List Stage) :
    runFrom cmd st (st' :: rest) f v = runFrom cmd st' rest f.stageStarted w := by
  have hr := runFrom_stage cmd st (st' :: rest) f v
  rw [h] at hr
  have h0 : ((stageFrame cmd st (st' :: rest) f).putFrame w).nextStall = 0 := nextStall_cons hl
  rw [runFrom, runStages_next hr, if_pos h0, enter_after_stage, runFrom]

/-- R105: the frame of an idle block is idle again after a command. -/
theorem completed_of_idle {s : State} (h : s.seq = .idle) : s.completed = { s with
    done := true, err := .none, errInfo := 0, stalls := s.stalls.tail, started := s.started + 1 } := by
  rw [State.completed, ← h]

/-- R101: an accepted command whose first stage takes no time. -/
theorem issue_runFrom {s : State} (h : s.seq = .idle) (h0 : s.nextStall = 0) {cmd : Instr}
    {check : State → Option (ErrCode × Word)} {st : Stage} {rest : List Stage} (hs : stagesOf cmd = st :: rest)
    (hc : check s.clearReport = none) : issue cmd check s = runFrom cmd st rest s s := by
  rw [issue_accept h hs hc]
  exact if_pos h0

end Sys2Proof.Machine
end

section
/-! SUPPORT. CONVERT: the grid and the bitmap it makes, its aborts, and its equality with the three commands
(40_control.md R110, R111). -/

namespace Sys2Proof.Machine

/-! ## The THRESH stage in THRESH and CONVERT -/

/-- R151: the operands pass THRESH's and CONVERT's acceptance checks. -/
structure ThreshOperands (s : State) : Prop where
  width : 0 < s.width.toInt
  blackLow : 1 ≤ s.black.toNat
  blackHigh : s.black.toNat ≤ 99
  pixLen : s.pixLen.toNat ≤ s.capPix.toNat

theorem ThreshOperands.check {s : State} (h : ThreshOperands s) : threshCheck s.clearReport = none :=
  threshCheck_none (s := s.clearReport) h.width h.blackLow h.blackHigh h.pixLen

/-- R157: the grid of the image, with its descriptors. -/
def State.withGrid (s : State) : State :=
  { s with
    empty := s.noInk, gridValid := true
    gridW := BitVec.ofNat 32 s.window.w, gridH := BitVec.ofNat 32 s.window.h
    mem := { s.mem with grid := ⟨numberFrom 0 (windowCells s.window s.inkAt), s.draws⟩ }
    draws := s.draws + 1 }

theorem perform_thresh {s : State} (h : s.window.w * s.window.h ≤ s.capGrid.toNat) :
    Stage.thresh.perform s = .ok s.withGrid :=
  threshStage_fits (s := threshStart s) h

theorem perform_thresh_overflow {s : State} (h : s.capGrid.toNat < s.window.w * s.window.h) :
    Stage.thresh.perform s = .abort .capacity 2 { s with
      empty := false, gridValid := false, mem := { s.mem with grid := ⟨[], s.draws⟩ }, draws := s.draws + 1 } :=
  threshStage_overflow (s := threshStart s) h

/-- R110, R150: a command that begins with THRESH's checks and its stage. -/
def BeginsWithThresh (i : Instr) (rest : List Stage) : Prop :=
  stagesOf i = .thresh :: rest ∧ ∀ s, exec i s = .next (issue i threshCheck s)

theorem exec_beginsWithThresh {i : Instr} {rest : List Stage} (h : BeginsWithThresh i rest) {s : State}
    (hi : s.seq = .idle) (h0 : s.nextStall = 0) (hc : threshCheck s.clearReport = none) :
    exec i s = .next (runFrom i .thresh rest s s) := by
  rw [h.2, issue_runFrom hi h0 h.1 hc]

theorem beginsWithThresh_of_mem {i : Instr} (h : i ∈ [.thresh, .convertZ64N, .convertZ64I, .convertZ64L, .convertZ64B,
    .convertZ64R, .convertAcsN, .convertAcsI, .convertAcsL, .convertAcsB, .convertAcsR]) :
    ∃ rest, BeginsWithThresh i rest := by
  fin_cases h <;> exact ⟨_, rfl, fun _ => rfl⟩

/-- Settles O16: the first stage aborts, and an abort runs no later stage. -/
theorem gridOverflowAborts : Obligations.GridOverflowAborts := by
  intro s i hmem hi h0 hw hb hb' hl hover
  obtain ⟨rest, hthresh⟩ := beginsWithThresh_of_mem hmem
  rw [exec_beginsWithThresh hthresh hi h0 (ThreshOperands.check ⟨hw, hb, hb', hl⟩),
    runFrom_abort (perform_thresh_overflow hover)]
  rfl

/-! ## The PACK stage of a CONVERT -/

/-- R182 to R186: the output dimensions of the image's grid. -/
def State.imageDims (o : Orient) (s : State) : Nat × Nat := Machine.outDims o s.window.w s.window.h

/-- R181, R187: the bitmap of the image's grid. -/
def State.imageBytes (o : Orient) (s : State) : List Byte :=
  packBytes (s.imageDims o).1 (s.imageDims o).2
    (outCell o s.window.w s.window.h fun x y => s.inkAt (s.window.x0 + x) (s.window.y0 + y))

/-- R187: the grid and the bitmap of the image, with their descriptors. -/
def State.withBitmap (o : Orient) (s : State) : State :=
  { s.withGrid with
    packValid := true
    pkLen := BitVec.ofNat 32 (ceil8 (s.imageDims o).1 * (s.imageDims o).2)
    pkRowlen := BitVec.ofNat 32 (ceil8 (s.imageDims o).1)
    pkW := BitVec.ofNat 32 (s.imageDims o).1, pkH := BitVec.ofNat 32 (s.imageDims o).2
    mem := { s.withGrid.mem with pack := ⟨numberFrom 0 (s.imageBytes o), s.draws + 1⟩ }
    draws := s.draws + 2 }

theorem withGrid_outDims (o : Orient) (s : State) :
    Machine.outDims o s.withGrid.gridW.toNat s.withGrid.gridH.toNat = s.imageDims o := by
  have hw : s.withGrid.gridW.toNat = s.window.w := toNat_ofNat_word (window_w_lt s)
  have hh : s.withGrid.gridH.toNat = s.window.h := toNat_ofNat_word (window_h_lt s)
  rw [hw, hh, State.imageDims]

/-- R41, R157: the grid's cells are the window's pixels. -/
theorem withGrid_cell {s : State} {x y : Nat} (hx : x < s.window.w) (hy : y < s.window.h) :
    s.withGrid.cell x y = s.inkAt (s.window.x0 + x) (s.window.y0 + y) := by
  have hw : s.withGrid.gridW.toNat = s.window.w := toNat_ofNat_word (window_w_lt s)
  rw [State.cell, hw]
  refine (BitBuf.read_numbered ..).trans ?_
  rw [windowCells_getElem? _ _ hx hy]
  rfl

theorem withGrid_packResult (o : Orient) (s : State) : s.withGrid.packResult o = s.imageBytes o := by
  have hw : s.withGrid.gridW.toNat = s.window.w := toNat_ofNat_word (window_w_lt s)
  have hh : s.withGrid.gridH.toNat = s.window.h := toNat_ofNat_word (window_h_lt s)
  rw [State.packResult, State.outDims, withGrid_outDims, hw, hh]
  exact packBytes_congr fun r c hr hc => outCell_congr o (fun x y hx hy => withGrid_cell hx hy) hr hc

theorem perform_pack {s : State} {o : Orient} (h : ceil8 (s.imageDims o).1 * (s.imageDims o).2 ≤ s.capPack.toNat) :
    (Stage.pack o).perform s.withGrid = .ok (s.withBitmap o) := by
  rw [← withGrid_outDims] at h
  refine (packStage_fits (s := s.withGrid) h).trans ?_
  rw [withGrid_outDims, withGrid_packResult]
  rfl

theorem perform_pack_overflow {s : State} {o : Orient}
    (h : s.capPack.toNat < ceil8 (s.imageDims o).1 * (s.imageDims o).2) :
    (Stage.pack o).perform s.withGrid = .abort .capacity 3 { s.withGrid with
      packValid := false
      mem := { s.withGrid.mem with pack := ⟨[], s.draws + 1⟩ }
      draws := s.draws + 2 } := by
  rw [← withGrid_outDims] at h
  exact packStage_overflow (s := s.withGrid) h

/-- R210, R230: the operand of the ENC stage is the whole bitmap. -/
theorem withBitmap_packed {s : State} {o : Orient}
    (h : ceil8 (s.imageDims o).1 * (s.imageDims o).2 ≤ s.capPack.toNat) :
    (s.withBitmap o).packed = s.imageBytes o := by
  have hlen : (s.withBitmap o).pkLen.toNat = (s.imageBytes o).length := by
    rw [State.imageBytes, length_packBytes]
    exact toNat_ofNat_word (Nat.lt_of_le_of_lt h s.capPack.isLt)
  rw [State.packed, hlen]
  refine List.ext_getElem (by simp) fun k hk hk' => ?_
  rw [List.getElem_map, List.getElem_range]
  refine (ByteBuf.read_numbered ..).trans ?_
  simp [hk']

/-! ## The three stages -/

/-- R110: CONVERT in orientation `o` and format `f`. -/
def IsConvert (c : Instr) (o : Orient) (f : Fmt) : Prop := BeginsWithThresh c [.pack o, .enc f]

/-- R82, R92: CONVERT.Z64 in its five rotate codes. -/
def convertZ64Forms : List (Instr × Orient) :=
  [(.convertZ64N, .normal), (.convertZ64I, .invert), (.convertZ64L, .rotateLeft), (.convertZ64B, .rotateLeft),
    (.convertZ64R, .rotateRight)]

/-- R82, R92: CONVERT.ACS in its five rotate codes. -/
def convertAcsForms : List (Instr × Orient) :=
  [(.convertAcsN, .normal), (.convertAcsI, .invert), (.convertAcsL, .rotateLeft), (.convertAcsB, .rotateLeft),
    (.convertAcsR, .rotateRight)]

theorem isConvert_z64 {x : Instr × Orient} (h : x ∈ convertZ64Forms) : IsConvert x.1 x.2 .z64 := by
  unfold convertZ64Forms at h
  fin_cases h <;> exact ⟨rfl, fun _ => rfl⟩

theorem isConvert_acs {x : Instr × Orient} (h : x ∈ convertAcsForms) : IsConvert x.1 x.2 .acs := by
  unfold convertAcsForms at h
  fin_cases h <;> exact ⟨rfl, fun _ => rfl⟩

theorem isConvert_of_mem {x : Instr × Orient} (h : x ∈ convertZ64Forms ++ convertAcsForms) :
    ∃ f, IsConvert x.1 x.2 f :=
  (List.mem_append.mp h).elim (fun h => ⟨_, isConvert_z64 h⟩) fun h => ⟨_, isConvert_acs h⟩

/-- The first two stages succeed and the ENC stage begins. -/
theorem exec_convert_enc {c : Instr} {o : Orient} {f : Fmt} (hc : IsConvert c o f) {s v w : State} {l : List Nat}
    (hi : s.seq = .idle) (hst : s.stalls = 0 :: 0 :: 0 :: l) (hcheck : threshCheck s.clearReport = none)
    (hv : Stage.thresh.perform s = .ok v) (hw : (Stage.pack o).perform v = .ok w) :
    exec c s = .next (runFrom c (.enc f) [] s.stageStarted.stageStarted w) := by
  rw [exec_beginsWithThresh hc hi (nextStall_cons hst) hcheck,
    runFrom_next hv (congrArg List.tail hst), runFrom_next hw (congrArg (fun d => d.tail.tail) hst)]

/-- Settles O38: THRESH succeeds and the PACK stage aborts. -/
theorem convertAbortsWhenThePackIsTooBig : Obligations.ConvertAbortsWhenThePackIsTooBig := by
  intro s c o rest hmem v d hi hst hw hb hb' hl hgrid hpack
  obtain ⟨f, hc⟩ := isConvert_of_mem hmem
  obtain rfl : rest = s.stalls.tail.tail := by rw [hst]; rfl
  rw [exec_beginsWithThresh hc hi (nextStall_cons hst) (ThreshOperands.check ⟨hw, hb, hb', hl⟩),
    runFrom_next (perform_thresh hgrid) (congrArg List.tail hst),
    runFrom_abort (perform_pack_overflow hpack), completed_of_idle (s := s.stageStarted) hi]
  rfl

/-- Settles O36: the ENC stage takes the whole bitmap, and its payload fits or not. -/
theorem convertAcsWritesAllThree : Obligations.ConvertAcsWritesAllThree := by
  intro s c o rest hmem v d bytes packed hi hst hw hb hb' hl hgrid hpack
  obtain rfl : rest = s.stalls.tail.tail.tail := by rw [hst]; rfl
  have henc := exec_convert_enc (isConvert_acs hmem) hi hst (ThreshOperands.check ⟨hw, hb, hb', hl⟩)
    (perform_thresh hgrid) (perform_pack hpack)
  have hstage : (Stage.enc .acs).perform (s.withBitmap o) = writePayload (acsPayload bytes) (s.withBitmap o) :=
    congrArg (fun p => writePayload (acsPayload p) (s.withBitmap o)) (withBitmap_packed hpack)
  have hframe := completed_of_idle (s := s.stageStarted.stageStarted) hi
  refine ⟨fun hfit => ?_, fun hover => ?_⟩
  · rw [henc, runFrom_last (hstage.trans (writePayload_fits hfit)), hframe]
    rfl
  · rw [henc, runFrom_abort (hstage.trans (writePayload_overflow hover)), hframe]
    rfl

/-- Settles O37: the same for what DEFLATE answers on the whole bitmap. -/
theorem convertZ64WritesAllThree : Obligations.ConvertZ64WritesAllThree := by
  intro s c o rest hmem v d bytes packed hi hst hw hb hb' hl hgrid hpack
  obtain rfl : rest = s.stalls.tail.tail.tail := by rw [hst]; rfl
  have henc := exec_convert_enc (isConvert_z64 hmem) hi hst (ThreshOperands.check ⟨hw, hb, hb', hl⟩)
    (perform_thresh hgrid) (perform_pack hpack)
  have hstage : (Stage.enc .z64).perform (s.withBitmap o) =
      z64Finish (Config.deflate bytes) (z64Start (s.withBitmap o)) :=
    congrArg (fun p => z64Finish (Config.deflate p) (z64Start (s.withBitmap o))) (withBitmap_packed hpack)
  have hframe := completed_of_idle (s := s.stageStarted.stageStarted) hi
  rw [henc]
  cases hz : Config.deflate bytes with
  | none =>
    rw [hz] at hstage
    rw [runFrom_abort (hstage.trans (z64Finish_fail _)), hframe]
    rfl
  | some z =>
    rw [hz] at hstage
    by_cases hover : s.capOut.toNat < 10 + (base64 z).length
    · rw [runFrom_abort (hstage.trans (z64Finish_overflow hover)), hframe]
      exact congrArg Host.Outcome.next (if_pos hover).symm
    · rw [runFrom_last (hstage.trans (z64Finish_fits (Nat.le_of_not_lt hover))), hframe]
      exact congrArg Host.Outcome.next (if_neg hover).symm

/-! ## One command after the other -/

theorem threshStage_abort_code {s w : State} {code : ErrCode} {info : Word}
    (h : threshStage s = .abort code info w) : code ≠ .none := by
  simp only [threshStage] at h
  split at h <;> cases h
  nofun

theorem packStage_abort_code {o : Orient} {s w : State} {code : ErrCode} {info : Word}
    (h : packStage o s = .abort code info w) : code ≠ .none := by
  simp only [packStage] at h
  split at h <;> cases h
  nofun

theorem writePayload_abort_code {p : List Byte} {s w : State} {code : ErrCode} {info : Word}
    (h : writePayload p s = .abort code info w) : code ≠ .none := by
  unfold writePayload at h
  split at h <;> cases h
  nofun

theorem z64Finish_abort_code {r : Option (List Byte)} {s w : State} {code : ErrCode} {info : Word}
    (h : z64Finish r s = .abort code info w) : code ≠ .none := by
  cases r with
  | none => cases h; nofun
  | some d =>
    by_cases hfit : 10 + (base64 d).length ≤ s.capOut.toNat
    · rw [z64Finish_fits hfit] at h; cases h
    · rw [z64Finish_overflow (Nat.lt_of_not_le hfit)] at h; cases h; nofun

/-- R250: an abort has an error to report. -/
theorem runStage_abort_code {st : Stage} {s w : State} {code : ErrCode} {info : Word}
    (h : runStage st s = .abort code info w) : code ≠ .none := by
  match st with
  | .crcInit | .loadGrid | .loadPack => cases h
  | .thresh => exact threshStage_abort_code h
  | .pack o => exact packStage_abort_code h
  | .enc .z64 => exact z64Finish_abort_code h
  | .enc .acs => exact writePayload_abort_code h

/-- R101, R105: a command of one stage that takes no time and ends without an error. -/
theorem exec_one_ok {c : Instr} {st : Stage} (hs : stagesOf c = [st]) {f v t : State} {l : List Nat}
    (hi : f.seq = .idle) (hst : f.stalls = 0 :: l) (h : exec c (f.putFrame v) = .next t) (herr : t.err = .none) :
    ∃ w, st.perform v = .ok w ∧ t = f.completed.putFrame w := by
  rcases exec_cases c (f.putFrame v) with ⟨rfl, -⟩ | ⟨x, rfl, -⟩ | ⟨-, -, check, st', rest, hs', e, -, -, -, -, hcode⟩
  · cases hs
  · cases hs
  · obtain rfl := Host.Outcome.next.inj (h.symm.trans e)
    rcases issue_cases c check (f.putFrame v) hs' with ⟨hb, -⟩ | ⟨-, code, info, hc, e⟩ | ⟨-, hc, -⟩
    · exact absurd hi hb
    · rw [e] at herr
      exact absurd herr (hcode _ _ _ hc)
    · have hrun : issue c check (f.putFrame v) = runFrom c st [] f v :=
        issue_runFrom (s := f.putFrame v) hi (nextStall_cons hst) hs hc
      rw [hrun] at herr ⊢
      cases hp : st.perform v with
      | ok w => exact ⟨w, rfl, runFrom_last hp c f⟩
      | abort code info w =>
        rw [runFrom_abort hp] at herr
        exact absurd herr (runStage_abort_code hp)

theorem threshCheck_code {s : State} {code : ErrCode} {info : Word} (h : threshCheck s = some (code, info)) :
    code ≠ .none := by
  unfold threshCheck at h
  split at h
  · cases h; nofun
  · split at h
    · cases h; nofun
    · split at h <;> cases h
      nofun

/-- R103: a THRESH that ends without an error has passed its checks. -/
theorem threshCheck_of_exec {s t : State} (hi : s.seq = .idle) (h : exec .thresh s = .next t) (herr : t.err = .none) :
    threshCheck s.clearReport = none := by
  cases hc : threshCheck s.clearReport with
  | none => rfl
  | some p =>
    have hreject := issue_reject (cmd := .thresh) hi hc
    obtain rfl := Host.Outcome.next.inj (h.symm.trans (congrArg Host.Outcome.next hreject))
    exact absurd herr (threshCheck_code hc)

/-- R110: the CONVERT `c` and the PACK and ENC that make the same payload after THRESH. -/
structure ThreeCommands (c p e : Instr) (o : Orient) (f : Fmt) : Prop where
  convert : IsConvert c o f
  pack : stagesOf p = [.pack o]
  enc : stagesOf e = [.enc f]

theorem threeCommands_of_mem {x : Instr × Instr × Instr}
    (h : x ∈ [(Instr.convertZ64N, Instr.packN, Instr.encZ64), (.convertZ64I, .packI, .encZ64),
      (.convertZ64L, .packL, .encZ64), (.convertZ64B, .packB, .encZ64), (.convertZ64R, .packR, .encZ64),
      (.convertAcsN, .packN, .encAcs), (.convertAcsI, .packI, .encAcs), (.convertAcsL, .packL, .encAcs),
      (.convertAcsB, .packB, .encAcs), (.convertAcsR, .packR, .encAcs)]) :
    ∃ o f, ThreeCommands x.1 x.2.1 x.2.2 o f := by
  fin_cases h <;> exact ⟨_, _, ⟨rfl, fun _ => rfl⟩, rfl, rfl⟩

/-- Settles O39: each command performs one stage, and the frame around it leaves no trace in the next. -/
theorem convertEqualsThreeCommands : Obligations.ConvertEqualsThreeCommands := by
  intro s t1 t2 t3 c p e rest hmem hi hst h1 he1 h2 he2 h3 he3
  obtain ⟨o, f, hcmd⟩ := threeCommands_of_mem hmem
  have hcheck := threshCheck_of_exec hi h1 he1
  obtain ⟨v, hv, rfl⟩ := exec_one_ok (f := s) (v := s) rfl hi hst h1 he1
  obtain ⟨w, hw, rfl⟩ := exec_one_ok hcmd.pack rfl (congrArg List.tail hst) h2 he2
  obtain ⟨x, hx, rfl⟩ := exec_one_ok hcmd.enc rfl (congrArg (fun d => d.tail.tail) hst) h3 he3
  rw [exec_convert_enc hcmd.convert hi hst hcheck hv hw, runFrom_last hx]
  rfl

end Sys2Proof.Machine
end

section
/-! SUPPORT. The checksum unit: the table and the step in numbers, the 32-bit loop (41_crc16.md R131 to R133), and the
two instructions (R130, R134, R135). -/

namespace Sys2Proof.Machine

/-! ## The table (R131) -/

/-- R131: one of the eight iterations, in numbers. -/
def crcBitNat (c : Nat) : Nat := if c % 2 = 1 then 0xEDB88320 ^^^ c / 2 else c / 2

theorem toNat_crcBit : Function.Semiconj BitVec.toNat crcBit crcBitNat := by
  intro c
  have hbit : c.getLsbD 0 = true ↔ c.toNat % 2 = 1 := by
    rw [← BitVec.testBit_toNat, Nat.testBit_zero, decide_eq_true_iff]
  simp only [crcBit, crcBitNat, hbit, apply_ite BitVec.toNat]
  simp [Nat.shiftRight_eq_div_pow]

theorem toNat_crcTable (i : Byte) : (crcTable i).toNat = crcBitNat^[8] i.toNat := by
  have hi : (i.zeroExtend 32).toNat = i.toNat := BitVec.toNat_setWidth_of_le (by decide)
  rw [← hi]
  exact toNat_crcBit.iterate_right 8 (i.zeroExtend 32)

/-! ## The step and the loops (R132, R133) -/

theorem toNat_crcStep (acc : Word16) (c : Byte) : (crcStep acc c).toNat =
    (crcTable (BitVec.ofNat 8 (c.toNat ^^^ acc.toNat / 256))).toNat % 65536 ^^^ acc.toNat * 256 % 65536 := by
  have hj : c ^^^ acc.extractLsb' 8 8 = BitVec.ofNat 8 (c.toNat ^^^ acc.toNat / 256) := by
    rw [BitVec.ofNat_xor, BitVec.ofNat_toNat, BitVec.setWidth_eq, BitVec.extractLsb', Nat.shiftRight_eq_div_pow]
  simp [crcStep, hj, BitVec.toNat_shiftLeft, Nat.shiftLeft_eq]

/-- R132: the bits of the 32-bit accumulator above bit 15 do not reach the low half. -/
theorem low_crc32Step (crc : Word) (c : Byte) :
    (crc32Step crc c).extractLsb' 0 16 = crcStep (crc.extractLsb' 0 16) c := by
  have hj : crc.extractLsb' 8 8 = (crc.extractLsb' 0 16).extractLsb' 8 8 := by
    ext k hk
    simp
  have hs : (crc <<< 8).extractLsb' 0 16 = crc.extractLsb' 0 16 <<< 8 := by
    apply BitVec.eq_of_toNat_eq
    simp [Nat.shiftLeft_eq]
  rw [crc32Step, crcStep, BitVec.extractLsb'_xor, hj, hs]

/-- R132: the loop on the 32-bit accumulator, whose low half alone counts. -/
theorem low_crc32Loop (codes : List Nat) (crc : Word) :
    (crc32Loop crc codes).map (·.extractLsb' 0 16) =
      if ∀ c ∈ codes, c ≤ 255 then some ((codes.map (BitVec.ofNat 8)).foldl crcStep (crc.extractLsb' 0 16))
      else none := by
  induction codes generalizing crc with
  | nil => simp [crc32Loop]
  | cons c codes ih =>
    by_cases hc : c ≤ 255
    · simp [crc32Loop, Nat.not_lt.mpr hc, hc, ih, low_crc32Step]
    · simp [crc32Loop, hc]

theorem crc16Of_eq (codes : List Nat) :
    crc16Of codes = if ∀ c ∈ codes, c ≤ 255 then some (crc16 (codes.map (BitVec.ofNat 8))) else none := by
  simp [crc16Of]

/-- R132, R133: both loops start at 0. -/
theorem crc16Of_eq_crc32Ref (codes : List Nat) : crc16Of codes = crc32Ref codes := by
  rw [crc16Of_eq, crc32Ref, low_crc32Loop]
  rfl

theorem crc16Of_eq_none_iff (codes : List Nat) : crc16Of codes = none ↔ ∃ c ∈ codes, 255 < c := by
  simp [crc16Of_eq]

theorem crc16Of_bytes (codes : List Byte) : crc16Of (codes.map BitVec.toNat) = some (crc16 codes) := by
  have hle : ∀ c ∈ codes.map BitVec.toNat, c ≤ 255 := by
    simp only [List.forall_mem_map]
    exact fun c _ => Nat.le_of_lt_succ c.isLt
  rw [crc16Of_eq, if_pos hle, List.map_map]
  simp [Function.comp_def]

/-- Settles O6: the low half of the 32-bit accumulator goes through the 16-bit one's values; the step and the table are
read off their definitions. -/
theorem checksumEqualsReferenceLoop : Obligations.ChecksumEqualsReferenceLoop := by
  refine ⟨fun codes => ?_, crc16Of_bytes, toNat_crcStep, toNat_crcTable⟩
  have heq := crc16Of_eq_crc32Ref codes
  exact ⟨heq, heq ▸ crc16Of_eq_none_iff codes⟩

/-! ## The two instructions (R130, R134, R135) -/

/-- R105, R130: CRC.INIT is one stage, which cannot fail. -/
theorem exec_crcInit_completed {s : State} (h : s.seq = .idle) (h0 : s.nextStall = 0) :
    exec .crcInit s = .next { s.completed with crcAcc := 0, crcErr := false } :=
  calc exec .crcInit s
    _ = .next (runStage .crcInit (s.clearReport.enter .crcInit .crcInit [])).finish :=
      congrArg Host.Outcome.next (issue_one_now h h0 rfl rfl)
    _ = _ := rfl

/-- R37: the digits of an accumulator that is 0. -/
theorem crcHexWord_zero {s : State} (h : s.crcAcc = 0) : s.crcHexWord = 0x30303030 := by
  rw [State.crcHexWord, h]
  decide

/-- Settles O7: the one stage completes at once, and the registers show the accumulator it leaves. -/
theorem crcInitStartsNewChecksum : Obligations.CrcInitStartsNewChecksum :=
  fun _ hidle h0 => ⟨exec_crcInit_completed hidle h0, rfl, crcHexWord_zero rfl, rfl⟩

theorem exec_crcFeed_idle {s : State} (h : s.seq = .idle) (v : Word) :
    exec (.crcFeed v) s = .next (crcFeedIdle v s) := by
  simp [exec, execCrcFeed, busy_eq_false h]

theorem crcFeedIdle_frozen {s : State} (h : s.crcErr = true) (v : Word) : crcFeedIdle v s = s :=
  if_pos h

theorem crcFeedIdle_step {v : Word} {s : State} (h : s.crcErr = false) (hv : v.toNat ≤ 255) :
    crcFeedIdle v s = { s with crcAcc := crcStep s.crcAcc (BitVec.ofNat 8 v.toNat) } := by
  simp [crcFeedIdle, h, Nat.not_lt.mpr hv, BitVec.extractLsb']

theorem crcFeedIdle_outOfRange {v : Word} {s : State} (h : s.crcErr = false) (hv : 255 < v.toNat) :
    crcFeedIdle v s = { s with crcErr := true, err := .charOutOfRange, errInfo := v } := by
  simp [crcFeedIdle, h, hv, State.report]

/-- Settles O8: the three outcomes on an idle block, and the dropped write. -/
theorem crcFeedUpdatesOrFreezes : Obligations.CrcFeedUpdatesOrFreezes := by
  intro s v
  refine ⟨fun hi herr hv => ?step, fun hi herr hv => ?outOfRange, fun hi herr => ?frozen, fun hb => ?busy⟩
  case step => rw [exec_crcFeed_idle hi, crcFeedIdle_step herr hv]
  case outOfRange => rw [exec_crcFeed_idle hi, crcFeedIdle_outOfRange herr hv]
  case frozen => rw [exec_crcFeed_idle hi, crcFeedIdle_frozen herr]
  case busy => exact exec_busy hb nofun

end Sys2Proof.Machine
end

section
/-! SUPPORT. The acceptance checks of THRESH, CONVERT and LOAD.GRID (42_threshold.md R151, R160), and LOAD.GRID. -/

namespace Sys2Proof.Machine

theorem threshCheck_invalidWidth {s : State} (hw : s.width.toInt ≤ 0) :
    threshCheck s = some (.invalidWidth, s.width) :=
  if_pos hw

theorem threshCheck_badConfig {s : State} (hw : 0 < s.width.toInt) (hb : s.black.toNat < 1 ∨ 99 < s.black.toNat) :
    threshCheck s = some (.badConfig, 1) := by
  have hw : ¬ s.imageWidth ≤ 0 := Int.not_le.mpr hw
  rw [threshCheck, if_neg hw, if_pos hb]

theorem threshCheck_capacity {s : State} (hw : 0 < s.width.toInt) (hb : 1 ≤ s.black.toNat) (hb' : s.black.toNat ≤ 99)
    (hl : s.capPix.toNat < s.pixLen.toNat) : threshCheck s = some (.capacity, 1) := by
  have hw : ¬ s.imageWidth ≤ 0 := Int.not_le.mpr hw
  rw [threshCheck, if_neg hw, if_neg (by omega), if_pos hl]

/-- Settles O12: each command begins with THRESH's checks, and a failing check rejects. -/
theorem thresholdChecksInOrder : Obligations.ThresholdChecksInOrder := by
  intro s i hmem hi
  obtain ⟨rest, -, hexec⟩ := beginsWithThresh_of_mem hmem
  rw [hexec]
  refine ⟨fun hw => ?width, fun hw hb => ?black, fun hw hb hb' hl => ?length⟩
  case width => rw [issue_reject hi (threshCheck_invalidWidth (s := s.clearReport) hw), clearReport_width]
  case black => rw [issue_reject hi (threshCheck_badConfig (s := s.clearReport) hw hb)]
  case length => rw [issue_reject hi (threshCheck_capacity (s := s.clearReport) hw hb hb' hl)]

theorem loadGridCheck_fits {s : State} (h : s.gridW.toNat * s.gridH.toNat ≤ s.capGrid.toNat) :
    loadGridCheck s = none :=
  if_neg (Nat.not_lt.mpr h)

theorem loadGridCheck_overflow {s : State} (h : s.capGrid.toNat < s.gridW.toNat * s.gridH.toNat) :
    loadGridCheck s = some (.capacity, 2) :=
  if_pos h

/-- R105, R160: LOAD.GRID is one stage, which cannot fail. -/
theorem exec_loadGrid_completed {s : State} (hi : s.seq = .idle) (h0 : s.nextStall = 0)
    (h : s.gridW.toNat * s.gridH.toNat ≤ s.capGrid.toNat) :
    exec .loadGrid s = .next { s.completed with gridValid := true } :=
  calc exec .loadGrid s
    _ = .next (runFrom .loadGrid .loadGrid [] s s) :=
      congrArg Host.Outcome.next (issue_runFrom hi h0 rfl (loadGridCheck_fits (s := s.clearReport) h))
    _ = .next (s.completed.putFrame (loadGridStage s)) := congrArg Host.Outcome.next (runFrom_last rfl _ _)
    _ = _ := rfl

/-- Settles O18: the check decides on the exact product, and the stage sets the valid bit alone. -/
theorem loadGridChecksTheSize : Obligations.LoadGridChecksTheSize :=
  fun s hi => ⟨exec_loadGrid_completed hi, fun hover =>
    congrArg Host.Outcome.next (issue_reject hi (loadGridCheck_overflow (s := s.clearReport) hover))⟩

end Sys2Proof.Machine
end

section
/-! SUPPORT. The ink test in exact arithmetic (42_threshold.md R153, R154). -/

namespace Sys2Proof.Machine

/-- R154: the sums that the integer test compares. -/
theorem ink_iff (p : Pixel) (percent : Nat) : ink p percent = true ↔
    (30 * p.r.toNat + 59 * p.g.toNat + 11 * p.b.toNat) * p.a.toNat + 76500 * (255 - p.a.toNat) ≤ 65025 * percent :=
  decide_eq_true_iff

/-- R153: `gray`, with the normalized alpha `a = A / 255`. -/
def Pixel.gray (p : Pixel) : ℚ :=
  ((3 / 10 : ℚ) * p.r.toNat + (59 / 100) * p.g.toNat + (11 / 100) * p.b.toNat) * (p.a.toNat / 255) +
    3 * 255 * (1 - p.a.toNat / 255)

/-- R154: the integer test's left side is `gray` times 25500; A is at most 255, so the subtraction is exact. -/
theorem scaled_gray (p : Pixel) :
    (((30 * p.r.toNat + 59 * p.g.toNat + 11 * p.b.toNat) * p.a.toNat + 76500 * (255 - p.a.toNat) : ℕ) : ℚ) =
      25500 * p.gray := by
  have ha : p.a.toNat ≤ 255 := Nat.le_of_lt_succ p.a.isLt
  rw [Pixel.gray]
  push_cast [ha]
  ring

theorem scaled_black (percent : Nat) : ((65025 * percent : ℕ) : ℚ) = 25500 * (255 * percent / 100) := by
  push_cast
  ring

/-- Settles O11: both sides of the integer test are those of the source's, times 25500. -/
theorem inkIsTheLuminanceTest : Obligations.InkIsTheLuminanceTest := by
  intro p percent a
  have hpos : (0 : ℚ) < 25500 := by norm_num
  rw [ink_iff, ← Nat.cast_le (α := ℚ), scaled_gray, scaled_black, mul_le_mul_iff_right₀ hpos]
  rfl

end Sys2Proof.Machine
end

section
/-! SUPPORT. THRESH: the grid it writes, without trim and with it (42_threshold.md R155 to R157). -/

namespace Sys2Proof.Machine

/-- R105, R157: THRESH on operands that pass its checks and a window that fits. -/
theorem exec_thresh_withGrid {s : State} (hi : s.seq = .idle) (h0 : s.nextStall = 0) (hop : ThreshOperands s)
    (hfit : s.window.w * s.window.h ≤ s.capGrid.toNat) :
    exec .thresh s = .next (s.completed.putFrame s.withGrid) := by
  have hthresh : BeginsWithThresh .thresh [] := ⟨rfl, fun _ => rfl⟩
  rw [exec_beginsWithThresh hthresh hi h0 hop.check, runFrom_last (perform_thresh hfit)]

/-- Settles O13: the stage writes the grid, and the frame its registers. -/
theorem thresholdWritesTheGrid : Obligations.ThresholdWritesTheGrid := by
  intro s hi h0 hw hb hb' hl hfit
  rw [exec_thresh_withGrid hi h0 ⟨hw, hb, hb', hl⟩ hfit]
  rfl

theorem withGrid_gridW (s : State) : s.withGrid.gridW.toNat = s.window.w := toNat_ofNat_word (window_w_lt s)

theorem withGrid_gridH (s : State) : s.withGrid.gridH.toNat = s.window.h := toNat_ofNat_word (window_h_lt s)

/-- R41: `withGrid_cell`, with the window and the place of the cell in GRID written out. -/
theorem withGrid_read {s : State} {v : Window} (hv : s.window = v) {x y : Nat} (hx : x < v.w) (hy : y < v.h) :
    s.withGrid.mem.grid.read (y * v.w + x) = s.inkAt (v.x0 + x) (v.y0 + y) := by
  subst hv
  rw [← withGrid_cell hx hy, State.cell, withGrid_gridW]

/-! ## Without trim (R155) -/

theorem window_notrim {s : State} (h : s.notrim = true) : s.window = ⟨0, 0, s.columns, s.rows⟩ := if_pos h

theorem noInk_notrim {s : State} (h : s.notrim = true) : s.noInk = false := by simp [State.noInk, h]

/-- Settles O14: the window is the image. -/
theorem noTrimGridIsTheWholeImage : Obligations.NoTrimGridIsTheWholeImage := by
  intro s w h pixel hi h0 hw hb hb' hl hnt hfit
  have hwin : s.window = ⟨0, 0, w, h⟩ := window_notrim hnt
  refine ⟨_, exec_thresh_withGrid hi h0 ⟨hw, hb, hb', hl⟩ (by rw [hwin]; exact hfit), ?width, ?height, rfl, ?empty,
    fun x y hx hy => ?cell⟩
  case width => exact (withGrid_gridW s).trans (congrArg Window.w hwin)
  case height => exact (withGrid_gridH s).trans (congrArg Window.h hwin)
  case empty => exact noInk_notrim hnt
  case cell =>
    have hcell := withGrid_read hwin hx hy
    rw [Nat.zero_add, Nat.zero_add] at hcell
    exact hcell

/-! ## With trim (R156) -/

/-- R156: `x0..x1` and `y0..y1` are the bounds of the places where `p` holds. -/
structure BoundsOf (p : Nat → Nat → Prop) (x0 x1 y0 y1 : Nat) : Prop where
  inside : ∀ x y, p x y → x0 ≤ x ∧ x ≤ x1 ∧ y0 ≤ y ∧ y ≤ y1
  left : ∃ y, p x0 y
  right : ∃ y, p x1 y
  top : ∃ x, p x y0
  bottom : ∃ x, p x y1

/-- The bounds of a set lie inside every other bounds of it, so they are unique. -/
theorem BoundsOf.le {p : Nat → Nat → Prop} {x0 x1 y0 y1 x0' x1' y0' y1' : Nat} (h : BoundsOf p x0 x1 y0 y1)
    (h' : BoundsOf p x0' x1' y0' y1') : x0 ≤ x0' ∧ x1' ≤ x1 ∧ y0 ≤ y0' ∧ y1' ≤ y1 := by
  obtain ⟨yl, hl⟩ := h'.left
  obtain ⟨yr, hr⟩ := h'.right
  obtain ⟨xt, ht⟩ := h'.top
  obtain ⟨xb, hb⟩ := h'.bottom
  exact ⟨(h.inside _ _ hl).1, (h.inside _ _ hr).2.1, (h.inside _ _ ht).2.2.1, (h.inside _ _ hb).2.2.2⟩

/-- Place (x, y) of a `w` by `h` image is ink. -/
def InkIn (w h : Nat) (f : Nat → Nat → Bool) (x y : Nat) : Prop := x < w ∧ y < h ∧ f x y = true

/-- R156: the bounding box that the model finds has the bounds of the ink. -/
theorem boundsOf_boundingBox {w h : Nat} {f : Nat → Nat → Bool} {v : Window} (hv : boundingBox w h f = some v) :
    ∃ x1 y1, v = ⟨v.x0, v.y0, x1 - v.x0 + 1, y1 - v.y0 + 1⟩ ∧ BoundsOf (InkIn w h f) v.x0 x1 v.y0 y1 := by
  obtain ⟨x1, y1, hvw, hvh, hx, hy, hx1, hy1, ⟨yl, hyl, hl⟩, ⟨yr, hyr, hr⟩, ⟨xt, hxt, ht⟩, ⟨xb, hxb, hb⟩, hin⟩ :=
    boundingBox_some hv
  refine ⟨x1, y1, by rw [← hvw, ← hvh], ?_⟩
  exact {
    inside := fun x y ⟨hx, hy, hf⟩ => hin x y hx hy hf
    left := ⟨yl, Nat.lt_of_le_of_lt hx hx1, hyl, hl⟩
    right := ⟨yr, hx1, hyr, hr⟩
    top := ⟨xt, hxt, Nat.lt_of_le_of_lt hy hy1, ht⟩
    bottom := ⟨xb, hxb, hy1, hb⟩ }

/-- R156: where the ink has bounds, they are the bounding box. -/
theorem boundingBox_of_bounds {w h : Nat} {f : Nat → Nat → Bool} {x0 x1 y0 y1 : Nat}
    (hb : BoundsOf (InkIn w h f) x0 x1 y0 y1) :
    boundingBox w h f = some ⟨x0, y0, x1 - x0 + 1, y1 - y0 + 1⟩ := by
  cases hbox : boundingBox w h f with
  | none =>
    obtain ⟨y, hx, hy, hf⟩ := hb.left
    exact absurd hf (by simp [boundingBox_none.1 hbox x0 y hx hy])
  | some v =>
    obtain ⟨x1', y1', hv, hb'⟩ := boundsOf_boundingBox hbox
    obtain ⟨hx0, hx1, hy0, hy1⟩ := hb.le hb'
    obtain ⟨hx0', hx1', hy0', hy1'⟩ := hb'.le hb
    rw [hv, Nat.le_antisymm hx0 hx0', Nat.le_antisymm hx1' hx1, Nat.le_antisymm hy0 hy0', Nat.le_antisymm hy1' hy1]

theorem window_trim {s : State} {v : Window} (h : s.notrim = false)
    (hb : boundingBox s.columns s.rows s.inkAt = some v) : s.window = v := by
  simp [State.window, h, hb]

theorem noInk_of_boundingBox {s : State} {v : Window} (hb : boundingBox s.columns s.rows s.inkAt = some v) :
    s.noInk = false := by
  simp [State.noInk, hb]

theorem noInk_of_blank {s : State} (h : s.notrim = false) (hno : ∀ x y, ¬ InkIn s.columns s.rows s.inkAt x y) :
    s.noInk = true := by
  have hb : boundingBox s.columns s.rows s.inkAt = none :=
    boundingBox_none.2 fun x y hx hy => Bool.eq_false_iff.mpr fun hf => hno x y ⟨hx, hy, hf⟩
  simp [State.noInk, h, hb]

/-- Settles O15: the window is the bounding box of the ink, or empty where there is none. -/
theorem trimCropsToTheInk : Obligations.TrimCropsToTheInk := by
  intro s w h pixel isInk hi h0 hw hb hb' hl hnt
  refine ⟨fun x0 x1 y0 y1 hin hleft hright htop hbottom hfit => ?ink, fun hno => ?blank⟩
  case ink =>
    have hbox : boundingBox s.columns s.rows s.inkAt = some ⟨x0, y0, x1 - x0 + 1, y1 - y0 + 1⟩ :=
      boundingBox_of_bounds ⟨hin, hleft, hright, htop, hbottom⟩
    have hwin := window_trim hnt hbox
    exact ⟨_, exec_thresh_withGrid hi h0 ⟨hw, hb, hb', hl⟩ (by rw [hwin]; exact hfit),
      (withGrid_gridW s).trans (congrArg Window.w hwin), (withGrid_gridH s).trans (congrArg Window.h hwin), rfl,
      noInk_of_boundingBox hbox, rfl, fun x y hx hy => withGrid_read hwin hx hy⟩
  case blank =>
    have hnoInk : s.noInk = true := noInk_of_blank hnt hno
    have hwin := window_noInk hnoInk
    exact ⟨_, exec_thresh_withGrid hi h0 ⟨hw, hb, hb', hl⟩ (by simp [hwin]),
      congrArg (fun v : Window => BitVec.ofNat 32 v.w) hwin, congrArg (fun v : Window => BitVec.ofNat 32 v.h) hwin, rfl,
      hnoInk, rfl⟩

end Sys2Proof.Machine
end

section
/-! SUPPORT. What THRESH reads (42_threshold.md R159). -/

namespace Sys2Proof.Machine

/-! ## The search and the cells depend on the image's pixels alone -/

theorem rowInk_congr {w : Nat} {f g : Nat → Nat → Bool} {y : Nat} (h : ∀ x, x < w → f x y = g x y) :
    rowInk w f y = rowInk w g y := by
  rw [Bool.eq_iff_iff, rowInk_iff, rowInk_iff]
  exact exists_congr fun x => and_congr_right fun hx => by rw [h x hx]

theorem colInk_congr {h : Nat} {f g : Nat → Nat → Bool} {x : Nat} (hfg : ∀ y, y < h → f x y = g x y) :
    colInk h f x = colInk h g x := by
  rw [Bool.eq_iff_iff, colInk_iff, colInk_iff]
  exact exists_congr fun y => and_congr_right fun hy => by rw [hfg y hy]

theorem firstIn_congr {n : Nat} {p q : Nat → Bool} (h : ∀ k, k < n → p k = q k) : firstIn n p = firstIn n q :=
  List.find?_congr fun k hk => h k (List.mem_range.mp hk)

theorem lastIn_congr {n : Nat} {p q : Nat → Bool} (h : ∀ k, k < n → p k = q k) : lastIn n p = lastIn n q :=
  List.find?_congr fun k hk => h k (List.mem_range.mp (List.mem_reverse.mp hk))

theorem boundingBox_congr {w h : Nat} {f g : Nat → Nat → Bool} (hfg : ∀ x y, x < w → y < h → f x y = g x y) :
    boundingBox w h f = boundingBox w h g := by
  have hrow : ∀ y, y < h → rowInk w f y = rowInk w g y := fun y hy => rowInk_congr fun x hx => hfg x y hx hy
  have hcol : ∀ x, x < w → colInk h f x = colInk h g x := fun x hx => colInk_congr fun y hy => hfg x y hx hy
  simp only [boundingBox, firstIn_congr hrow, lastIn_congr hrow, firstIn_congr hcol, lastIn_congr hcol]

theorem windowCells_congr {v : Window} {w h : Nat} (hw : v.x0 + v.w ≤ w) (hh : v.y0 + v.h ≤ h)
    {f g : Nat → Nat → Bool} (hfg : ∀ x y, x < w → y < h → f x y = g x y) : windowCells v f = windowCells v g := by
  refine List.flatMap_congr fun y hy => List.map_congr_left fun x hx => ?_
  rw [List.mem_range] at hx hy
  exact hfg _ _ (by omega) (by omega)

/-! ## The pixels depend on the operands alone -/

/-- R152, R159: the two blocks agree on W, L, P, NT and the bytes of the image. -/
structure SameImage (s s' : State) : Prop where
  width : s.width = s'.width
  pixLen : s.pixLen = s'.pixLen
  black : s.black = s'.black
  notrim : s.notrim = s'.notrim
  pix : ∀ k, k < 4 * s.columns * s.rows → s.mem.pix.read k = s'.mem.pix.read k

section
variable {s s' : State} (h : SameImage s s')
include h

theorem SameImage.columns : s.columns = s'.columns := congrArg (fun w : Word => w.toInt.toNat) h.width

theorem SameImage.rows : s.rows = s'.rows := by rw [State.rows, State.rows, h.columns, h.pixLen]

/-- R40: the four bytes of a pixel lie below 4 * W * H. -/
theorem SameImage.pixel {x y : Nat} (hx : x < s.columns) (hy : y < s.rows) : s.pixel x y = s'.pixel x y := by
  have hrow : (y + 1) * s.columns ≤ s.rows * s.columns := Nat.mul_le_mul_right _ hy
  have hlast : 4 * (y * s.columns + x) + 3 < 4 * s.columns * s.rows := by
    rw [Nat.add_mul, Nat.one_mul, Nat.mul_comm s.rows] at hrow
    rw [Nat.mul_assoc]
    omega
  simp (disch := omega) only [State.pixel, ← h.columns, h.pix]

theorem SameImage.inkAt (x y : Nat) (hx : x < s.columns) (hy : y < s.rows) : s.inkAt x y = s'.inkAt x y := by
  rw [State.inkAt, State.inkAt, h.pixel hx hy, h.black]

theorem SameImage.boundingBox :
    boundingBox s.columns s.rows s.inkAt = boundingBox s'.columns s'.rows s'.inkAt := by
  rw [boundingBox_congr h.inkAt, h.columns, h.rows]

theorem SameImage.window : s.window = s'.window := by
  rw [State.window, State.window, h.boundingBox, h.notrim, h.columns, h.rows]

theorem SameImage.noInk : s.noInk = s'.noInk := by
  rw [State.noInk, State.noInk, h.boundingBox, h.notrim]

/-- R155, R156: the window lies in the image, so its cells do. -/
theorem SameImage.windowCells : windowCells s.window s.inkAt = windowCells s'.window s'.inkAt := by
  obtain ⟨hw, hh⟩ := window_in_image s
  rw [← h.window, windowCells_congr hw hh h.inkAt]

end

/-- Settles O17: the image is the same, so the search and the cells are. -/
theorem thresholdReadsOnlyItsOperands : Obligations.ThresholdReadsOnlyItsOperands := by
  intro s s' hw hl hb hnt hpix
  have h : SameImage s s' := ⟨hw, hl, hb, hnt, hpix⟩
  exact ⟨h.window, h.noInk, h.windowCells⟩

end Sys2Proof.Machine
end

section
/-! SUPPORT. The packed rows, the laws of the orientations, and the cells that PACK reads (43_pack.md R181 to R189). -/

namespace Sys2Proof.Machine

/-! ## Packed rows (R181) -/

/-- Settles O21: column `c` is bit `7 - c mod 8` of byte `c div 8` of its row. -/
theorem rowsArePackedMsbFirst : Obligations.RowsArePackedMsbFirst := by
  intro w' h' o
  refine ⟨length_packBytes w' h' o, fun r c hr hc => ?_⟩
  have hbyte : c / 8 < ceil8 w' := Nat.div_lt_of_lt_mul hc
  have hbit : c % 8 < 8 := Nat.mod_lt c (by decide)
  refine ⟨packByte w' o r (c / 8), packBytes_getElem? w' h' o hbyte hr, ?_⟩
  rw [packByte_getLsbD w' o r (c / 8) hbit, Nat.div_add_mod]

/-! ## The four orientations (R182 to R186, R188) -/

/-- Settles O22: the rules' own case analysis, read off the definitions. -/
theorem orientationCellFunctions : Obligations.OrientationCellFunctions :=
  fun _ _ _ _ _ => ⟨⟨rfl, rfl⟩, ⟨rfl, rfl⟩, ⟨rfl, rfl⟩, rfl, rfl⟩

section
variable (w h : Nat) (g : Nat → Nat → Bool) (x y : Nat)

theorem turned_invert : turned .invert w h g x y = g (w - 1 - x) (h - 1 - y) := rfl

theorem turned_rotateLeft : turned .rotateLeft w h g x y = g (w - 1 - y) x := rfl

theorem turned_rotateRight : turned .rotateRight w h g x y = g y (h - 1 - x) := rfl

end

/-- Counting columns or rows from the other end, twice. -/
theorem reflect_reflect {n k : Nat} (h : k < n) : n - 1 - (n - 1 - k) = k := Nat.sub_sub_self (Nat.le_pred_of_lt h)

/-- Settles O24: each composite counts an axis from its other end an even number of times. -/
theorem orientationsCompose : Obligations.OrientationsCompose := by
  intro w h g x y
  refine ⟨fun hx hy => ⟨?invertInvert, ?leftThenRight, ?rightThenLeft⟩,
    fun hx _ => ⟨?invertThenRight, ?rightThenInvert⟩⟩
  case invertInvert => rw [turned_invert, turned_invert, reflect_reflect hx, reflect_reflect hy]
  case leftThenRight => rw [turned_rotateRight, turned_rotateLeft, reflect_reflect hx]
  case rightThenLeft => rw [turned_rotateLeft, turned_rotateRight, reflect_reflect hy]
  case invertThenRight => rw [turned_rotateLeft, turned_rotateRight, turned_invert, reflect_reflect hx]
  case rightThenInvert => rw [turned_rotateLeft, turned_invert, turned_rotateRight, reflect_reflect hx]

/-- The 1 cells of one row. -/
theorem count_row (p : Nat → Bool) (w : Nat) :
    ((List.range w).map p).count true = ∑ x ∈ Finset.range w, (p x).toNat := by
  induction w with
  | zero => rfl
  | succ w ih =>
    have hlast : [p w].count true = (p w).toNat := by cases p w <;> rfl
    rw [List.range_succ, List.map_append, List.count_append, ih, Finset.sum_range_succ, ← hlast]
    rfl

theorem inkCount_eq_sum (w h : Nat) (g : Nat → Nat → Bool) :
    inkCount w h g = ∑ y ∈ Finset.range h, ∑ x ∈ Finset.range w, (g x y).toNat := by
  rw [inkCount, List.count_flatMap]
  exact congrArg List.sum (List.map_congr_left fun y _ => count_row (g · y) w)

/-- Settles O25: an orientation reverses or exchanges the two sums over the cells. -/
theorem orientationsConserveInk : Obligations.OrientationsConserveInk := by
  intro o w h g
  rw [inkCount_eq_sum, inkCount_eq_sum]
  cases o with
  | normal => rfl
  | invert =>
    calc ∑ y ∈ Finset.range h, ∑ x ∈ Finset.range w, (g (w - 1 - x) (h - 1 - y)).toNat
      _ = ∑ y ∈ Finset.range h, ∑ x ∈ Finset.range w, (g x (h - 1 - y)).toNat :=
        Finset.sum_congr rfl fun y _ => Finset.sum_range_reflect (fun x => (g x (h - 1 - y)).toNat) w
      _ = ∑ y ∈ Finset.range h, ∑ x ∈ Finset.range w, (g x y).toNat :=
        Finset.sum_range_reflect (fun y => ∑ x ∈ Finset.range w, (g x y).toNat) h
  | rotateLeft =>
    calc ∑ y ∈ Finset.range w, ∑ x ∈ Finset.range h, (g (w - 1 - y) x).toNat
      _ = ∑ y ∈ Finset.range w, ∑ x ∈ Finset.range h, (g y x).toNat :=
        Finset.sum_range_reflect (fun y => ∑ x ∈ Finset.range h, (g y x).toNat) w
      _ = ∑ y ∈ Finset.range h, ∑ x ∈ Finset.range w, (g x y).toNat := Finset.sum_comm
  | rotateRight =>
    calc ∑ y ∈ Finset.range w, ∑ x ∈ Finset.range h, (g y (h - 1 - x)).toNat
      _ = ∑ y ∈ Finset.range w, ∑ x ∈ Finset.range h, (g y x).toNat :=
        Finset.sum_congr rfl fun y _ => Finset.sum_range_reflect (fun x => (g y x).toNat) h
      _ = ∑ y ∈ Finset.range h, ∑ x ∈ Finset.range w, (g x y).toNat := Finset.sum_comm

/-! ## What PACK reads (R189) -/

/-- R41: the index of a cell inside a `w` by `h` grid. -/
theorem cellIndex_lt {w h x y : Nat} (hx : x < w) (hy : y < h) : y * w + x < w * h :=
  calc y * w + x
    _ < y * w + w := Nat.add_lt_add_left hx _
    _ = (y + 1) * w := (Nat.succ_mul y w).symm
    _ ≤ h * w := Nat.mul_le_mul_right w hy
    _ = w * h := Nat.mul_comm h w

/-- Settles O26: every output cell is a cell of the grid, whose index is below `w * h`. -/
theorem packReadsOnlyItsCells : Obligations.PackReadsOnlyItsCells := by
  intro s s' o hw hh hcells
  have hcell : ∀ x y, x < s.gridW.toNat → y < s.gridH.toNat → s.cell x y = s'.cell x y := fun x y hx hy => by
    rw [State.cell, State.cell, ← hw, hcells _ (cellIndex_lt hx hy)]
  rw [State.packResult, State.packResult, State.outDims, State.outDims, ← hw, ← hh]
  exact packBytes_congr fun r c hr hc => outCell_congr o hcell hr hc

end Sys2Proof.Machine
end

section
/-! SUPPORT. PACK and LOAD.PACK: their acceptance checks, and the one stage of each (43_pack.md R180, R185, R187,
R190). -/

namespace Sys2Proof.Machine

/-- R101, R105: an accepted command of one stage that takes no time and succeeds. -/
theorem issue_one_ok {s : State} (hi : s.seq = .idle) (h0 : s.nextStall = 0) {cmd : Instr}
    {check : State → Option (ErrCode × Word)} {st : Stage} (hs : stagesOf cmd = [st])
    (hc : check s.clearReport = none) {w : State} (hw : st.perform s = .ok w) :
    issue cmd check s = s.completed.putFrame w := by
  rw [issue_runFrom hi h0 hs hc, runFrom_last hw]

/-! ## PACK -/

/-- R180, R187: the instruction `i` is PACK in orientation `o`. -/
def IsPack (i : Instr) (o : Orient) : Prop :=
  stagesOf i = [.pack o] ∧ ∀ s, exec i s = .next (issue i (packCheck o) s)

/-- R82, R92: PACK in its five rotate codes. -/
def packForms : List (Instr × Orient) :=
  [(.packN, .normal), (.packI, .invert), (.packL, .rotateLeft), (.packB, .rotateLeft), (.packR, .rotateRight)]

theorem isPack_of_mem {x : Instr × Orient} (h : x ∈ packForms) : IsPack x.1 x.2 := by
  unfold packForms at h
  fin_cases h <;> exact ⟨rfl, fun _ => rfl⟩

/-- R180: the size check is on the exact product. -/
theorem packTooBig_iff (o : Orient) (s : State) :
    s.packTooBig o = true ↔ s.capPack.toNat < ceil8 (s.outDims o).1 * (s.outDims o).2 :=
  decide_eq_true_iff

theorem packCheck_sequence {s : State} (hg : s.gridValid = false) (o : Orient) :
    packCheck o s = some (.sequence, 1) :=
  if_pos hg

theorem packCheck_capacity {s : State} {o : Orient} (hg : s.gridValid = true)
    (h : s.capPack.toNat < ceil8 (s.outDims o).1 * (s.outDims o).2) : packCheck o s = some (.capacity, 3) := by
  rw [packCheck, hg, if_neg nofun, if_pos ((packTooBig_iff o s).mpr h)]

theorem packCheck_fits {s : State} {o : Orient} (hg : s.gridValid = true)
    (h : ceil8 (s.outDims o).1 * (s.outDims o).2 ≤ s.capPack.toNat) : packCheck o s = none := by
  rw [packCheck, hg, if_neg nofun, if_neg fun hbig => Nat.not_lt.mpr h ((packTooBig_iff o s).mp hbig)]

/-- Settles O19: the checks pass, and the one stage writes the bitmap. -/
theorem packWritesTheBitmap : Obligations.PackWritesTheBitmap := by
  intro s i o hmem d hi h0 hg hfit
  obtain ⟨hstages, hexec⟩ := isPack_of_mem hmem
  have hcheck : packCheck o s.clearReport = none := packCheck_fits (s := s.clearReport) hg hfit
  rw [hexec, issue_one_ok hi h0 hstages hcheck (packStage_fits hfit)]
  rfl

/-- Settles O20: a failing check rejects. -/
theorem packChecksInOrder : Obligations.PackChecksInOrder := by
  intro s i o hmem d hi
  obtain ⟨-, hexec⟩ := isPack_of_mem hmem
  rw [hexec]
  refine ⟨fun hg => ?sequence, fun hg hbig => ?capacity⟩
  case sequence => rw [issue_reject hi (packCheck_sequence (s := s.clearReport) hg o)]
  case capacity => rw [issue_reject hi (packCheck_capacity (s := s.clearReport) hg hbig)]

/-- R105: a last stage that takes no time leaves no trace of the command it belongs to. -/
theorem runFrom_last_congr (c c' : Instr) (st : Stage) (f v : State) : runFrom c st [] f v = runFrom c' st [] f v := by
  cases h : st.perform v with
  | ok w => rw [runFrom_last h, runFrom_last h]
  | abort code info w => rw [runFrom_abort h, runFrom_abort h]

/-- Two commands with the same checks and the same one stage answer the same. -/
theorem issue_one_congr {s : State} (hi : s.seq = .idle) (h0 : s.nextStall = 0) {c c' : Instr} {st : Stage}
    (hs : stagesOf c = [st]) (hs' : stagesOf c' = [st]) (check : State → Option (ErrCode × Word)) :
    issue c check s = issue c' check s := by
  cases hc : check s.clearReport with
  | none => rw [issue_runFrom hi h0 hs hc, issue_runFrom hi h0 hs' hc, runFrom_last_congr c c']
  | some p => rw [issue_reject hi hc, issue_reject hi hc]

/-- Settles O23: both are PACK in the orientation RotateLeft. -/
theorem packBIsPackL : Obligations.PackBIsPackL := by
  intro s hi h0
  obtain ⟨hb, hexecB⟩ : IsPack .packB .rotateLeft := ⟨rfl, fun _ => rfl⟩
  obtain ⟨hl, hexecL⟩ : IsPack .packL .rotateLeft := ⟨rfl, fun _ => rfl⟩
  rw [hexecB, hexecL, issue_one_congr hi h0 hb hl]

/-! ## LOAD.PACK -/

/-- R190: the four descriptors are consistent. -/
def State.PackConsistent (s : State) : Prop :=
  s.pkRowlen.toNat = ceil8 s.pkW.toNat ∧ s.pkLen.toNat = s.pkRowlen.toNat * s.pkH.toNat

theorem loadPackCheck_badConfig {s : State} (h : ¬ s.PackConsistent) : loadPackCheck s = some (.badConfig, 2) :=
  if_pos (Decidable.not_and_iff_or_not.mp h)

theorem loadPackCheck_consistent {s : State} (h : s.PackConsistent) :
    loadPackCheck s = if s.pkLen.toNat > s.capPack.toNat then some (.capacity, 3) else none :=
  if_neg fun hbad => hbad.elim (absurd h.1) (absurd h.2)

theorem loadPackCheck_capacity {s : State} (h : s.PackConsistent) (hbig : s.capPack.toNat < s.pkLen.toNat) :
    loadPackCheck s = some (.capacity, 3) := by
  rw [loadPackCheck_consistent h, if_pos hbig]

theorem loadPackCheck_fits {s : State} (h : s.PackConsistent) (hfit : s.pkLen.toNat ≤ s.capPack.toNat) :
    loadPackCheck s = none := by
  rw [loadPackCheck_consistent h, if_neg (Nat.not_lt.mpr hfit)]

/-- Settles O27: a failing check rejects, and the one stage, which cannot fail, sets the valid bit alone. -/
theorem loadPackChecksTheDescriptors : Obligations.LoadPackChecksTheDescriptors := by
  intro s hi good
  have hexec : exec .loadPack s = .next (issue .loadPack loadPackCheck s) := rfl
  rw [hexec]
  refine ⟨fun hbad => ?badConfig, fun hgood hbig => ?capacity, fun hgood hfit h0 => ?fits⟩
  case badConfig => rw [issue_reject hi (loadPackCheck_badConfig (s := s.clearReport) hbad)]
  case capacity => rw [issue_reject hi (loadPackCheck_capacity (s := s.clearReport) hgood hbig)]
  case fits =>
    have hcheck : loadPackCheck s.clearReport = none := loadPackCheck_fits (s := s.clearReport) hgood hfit
    rw [issue_one_ok hi h0 rfl hcheck (w := loadPackStage s) rfl]
    rfl

end Sys2Proof.Machine
end

section
/-! SUPPORT. The base64 text group by group, the Z64 payload, and ENC.Z64 (44_z64.md R210 to R216). -/

namespace Sys2Proof.Machine

/-! ## One group (R213) -/

/-- R213: ALPHA. -/
def base64Alphabet : List Char := "ABCDEFGHIJKLMNOPQRSTUVWXYZabcdefghijklmnopqrstuvwxyz0123456789+/".toList

theorem base64Char_eq_alphabet {n : Nat} (h : n < 64) : base64Char n = ord (base64Alphabet.getD n '=') := by
  have : ∀ m : Fin 64, base64Char m = ord (base64Alphabet.getD m '=') := by decide +kernel
  exact this ⟨n, h⟩

theorem base64Group_ascii {b0 b1 b2 : Byte} {k : Nat} : ∀ c ∈ base64Group b0 b1 b2 k, c.toNat < 128 := by
  have hchar (v : Nat) : (base64Char (v % 64)).toNat < 128 := base64Char_ascii (Nat.mod_lt v (by decide))
  have hopt (p : Prop) [Decidable p] (v : Nat) : (if p then base64Char (v % 64) else ord '=').toNat < 128 := by
    split
    · exact hchar v
    · decide
  simp only [base64Group, List.forall_mem_cons]
  exact ⟨hchar _, hchar _, hopt _ _, hopt _ _, nofun⟩

@[simp] theorem length_base64Group (b0 b1 b2 : Byte) (k : Nat) : (base64Group b0 b1 b2 k).length = 4 := rfl

/-- A character that stands and a '=' are never the same. -/
theorem base64Char_or_pad_inj {p q : Prop} [Decidable p] [Decidable q] {m n : Nat} (hm : m < 64) (hn : n < 64)
    (h : (if p then base64Char m else ord '=') = if q then base64Char n else ord '=') :
    (p ↔ q) ∧ (p → m = n) := by
  split at h <;> split at h
  · next hp hq => exact ⟨iff_of_true hp hq, fun _ => base64Char_inj hm hn h⟩
  · exact absurd h (base64Char_ne_pad hm)
  · exact absurd h.symm (base64Char_ne_pad hn)
  · next hp hq => exact ⟨iff_of_false hp hq, fun h => absurd h hp⟩

/-- R213: a group's characters determine how many bytes it has, and these. -/
theorem base64Group_inj {b0 b1 b2 c0 c1 c2 : Byte} {k k' : Nat} (hk : 1 ≤ k ∧ k ≤ 3) (hk' : 1 ≤ k' ∧ k' ≤ 3)
    (h : base64Group b0 b1 b2 k = base64Group c0 c1 c2 k') : [b0, b1, b2].take k = [c0, c1, c2].take k' := by
  simp only [base64Group, List.cons.injEq, and_true] at h
  obtain ⟨h0, h1, h2, h3⟩ := h
  have hlt (v : Nat) : v % 64 < 64 := Nat.mod_lt v (by decide)
  obtain ⟨htwo, s2⟩ := base64Char_or_pad_inj (hlt _) (hlt _) h2
  obtain ⟨hthree, s3⟩ := base64Char_or_pad_inj (hlt _) (hlt _) h3
  obtain rfl : k = k' := by clear s2 s3; omega
  have s0 := base64Char_inj (hlt _) (hlt _) h0
  have s1 := base64Char_inj (hlt _) (hlt _) h1
  have e0 : b0 = c0 := BitVec.eq_of_toNat_eq (by omega)
  have e1 (hk2 : 2 ≤ k) : b1 = c1 := BitVec.eq_of_toNat_eq (by have := s2 hk2; omega)
  have e2 (hk3 : k = 3) : b2 = c2 :=
    BitVec.eq_of_toNat_eq (by have := s2 (hk3 ▸ by decide); have := s3 hk3; omega)
  obtain ⟨hlow, hhigh⟩ := hk
  interval_cases k
  · rw [e0]; rfl
  · rw [e0, e1 le_rfl]; rfl
  · rw [e0, e1 (by decide), e2 rfl]

/-! ## The text, group by group (R213) -/

/-- The first group takes up to three bytes, with 0 where there are fewer. -/
theorem base64_eq_group_append {d : List Byte} (h : d ≠ []) : base64 d =
    base64Group (d.getD 0 0) (d.getD 1 0) (d.getD 2 0) (min d.length 3) ++ base64 (d.drop 3) := by
  match d with
  | [_] | [_, _] => rfl
  | _ :: _ :: _ :: r =>
    simp [base64]

theorem base64_ascii (d : List Byte) : ∀ c ∈ base64 d, c.toNat < 128 := by
  induction d using base64.induct with
  | case1 => nofun
  | case2 | case3 => exact base64Group_ascii
  | case4 _ _ _ r ih =>
    intro c hc
    exact (List.mem_append.mp hc).elim (base64Group_ascii c) (ih c)

theorem drop_base64 (d : List Byte) (g : Nat) : (base64 d).drop (4 * g) = base64 (d.drop (3 * g)) := by
  induction g generalizing d with
  | zero => rfl
  | succ g ih =>
    have hfirst : (base64 d).drop 4 = base64 (d.drop 3) := by
      by_cases h : d = []
      · subst h; rfl
      · rw [base64_eq_group_append h]; rfl
    rw [Nat.mul_succ, Nat.mul_succ, Nat.add_comm, Nat.add_comm (3 * g), ← List.drop_drop, ← List.drop_drop, hfirst, ih]

/-- Character `j` of group `g`. -/
theorem base64_getElem? {d : List Byte} {g j : Nat} (hg : 3 * g < d.length) (hj : j < 4) :
    (base64 d)[4 * g + j]? = (base64Group (d.getD (3 * g) 0) (d.getD (3 * g + 1) 0) (d.getD (3 * g + 2) 0)
      (min (d.length - 3 * g) 3))[j]? := by
  have hne : d.drop (3 * g) ≠ [] := by simpa using hg
  have hgetD (k : Nat) : (d.drop (3 * g)).getD k 0 = d.getD (3 * g + k) 0 := by
    simp [List.getD_eq_getElem?_getD]
  rw [← List.getElem?_drop, drop_base64, base64_eq_group_append hne, List.getElem?_append_left hj, hgetD, hgetD, hgetD,
    List.length_drop]
  rfl

theorem take_three_eq_getD (d : List Byte) :
    [d.getD 0 0, d.getD 1 0, d.getD 2 0].take (min d.length 3) = d.take 3 := by
  match d with
  | [] | [_] | [_, _] => rfl
  | _ :: _ :: _ :: r => simp

/-- Settles O32: the first groups are of the same bytes, and the rest by induction. -/
theorem base64LosesNothing : Obligations.Base64LosesNothing := by
  intro d
  induction hn : d.length using Nat.strong_induction_on generalizing d with
  | _ n ih =>
    intro d' h
    have hlen : 4 * ((d.length + 2) / 3) = 4 * ((d'.length + 2) / 3) := by
      rw [← length_base64, ← length_base64, h]
    by_cases hd : d = []
    · subst hd
      exact (List.length_eq_zero_iff.mp (by simp at hlen; omega)).symm
    · have hpos : 0 < d.length := List.length_pos_iff.mpr hd
      have hpos' : 0 < d'.length := by omega
      rw [base64_eq_group_append hd, base64_eq_group_append (List.length_pos_iff.mp hpos')] at h
      obtain ⟨hgroup, hrest⟩ := List.append_inj h (by simp)
      have htake : d.take 3 = d'.take 3 := by
        rw [← take_three_eq_getD, ← take_three_eq_getD]
        exact base64Group_inj (by omega) (by omega) hgroup
      have hdrop : d.drop 3 = d'.drop 3 := ih _ (by rw [List.length_drop]; omega) _ rfl _ hrest
      rw [← List.take_append_drop 3 d, htake, hdrop, List.take_append_drop]

/-- Settles O31: each character is one of its group. -/
theorem z64PayloadIsFramed : Obligations.Z64PayloadIsFramed := by
  intro d
  refine ⟨length_base64 d, fun g hg => ?_, base64_ascii d, rfl, length_z64Payload _⟩
  have hchar (n : Nat) : base64Char (n % 64) = ord (base64Alphabet.getD (n % 64) '=') := base64Char_eq_alphabet (Nat.mod_lt n (by decide))
  have htwo : 2 ≤ min (d.length - 3 * g) 3 ↔ 3 * g + 1 < d.length := by omega
  have hthree : min (d.length - 3 * g) 3 = 3 ↔ 3 * g + 2 < d.length := by omega
  refine ⟨?_, ?_, ?_, ?_⟩
  · exact (base64_getElem? hg (j := 0) (by decide)).trans (congrArg some (hchar _))
  · exact (base64_getElem? hg (j := 1) (by decide)).trans (congrArg some (hchar _))
  · exact (base64_getElem? hg (j := 2) (by decide)).trans
      (congrArg some (ite_congr (propext htwo) (fun _ => hchar _) fun _ => rfl))
  · exact (base64_getElem? hg (j := 3) (by decide)).trans
      (congrArg some (ite_congr (propext hthree) (fun _ => hchar _) fun _ => rfl))

/-! ## ENC.Z64 (R216) -/

theorem encCheck_valid {s : State} (h : s.packValid = true) : encCheck s = none := by
  rw [encCheck, h, if_neg nofun]

/-- Settles O28: the check passes, and the one stage ends as the compressor's answer and the payload's size say. -/
theorem encZ64WritesThePayload : Obligations.EncZ64WritesThePayload := by
  intro s hi h0 hv
  have hcheck : encCheck s.clearReport = none := encCheck_valid (s := s.clearReport) hv
  have hstage : (Stage.enc .z64).perform s = z64Finish (Config.deflate s.packed) (z64Start s) := rfl
  rw [exec_enc (by decide), issue_runFrom hi h0 rfl hcheck, ← State.packed]
  cases hz : Config.deflate s.packed with
  | none =>
    rw [hz] at hstage
    rw [runFrom_abort (hstage.trans (z64Finish_fail _))]
    rfl
  | some d =>
    rw [hz] at hstage
    by_cases hover : s.capOut.toNat < 10 + (base64 d).length
    · rw [runFrom_abort (hstage.trans (z64Finish_overflow hover))]
      exact congrArg Host.Outcome.next (if_pos hover).symm
    · rw [runFrom_last (hstage.trans (z64Finish_fits (Nat.le_of_not_lt hover)))]
      exact congrArg Host.Outcome.next (if_neg hover).symm

end Sys2Proof.Machine
end

section
/-! SUPPORT. The run-length text and its decoder, and ENC.ACS (45_acs.md R231 to R236). -/

namespace Sys2Proof.Machine

/-! ## The hex text (R231) -/

theorem hexText_cons (b : Byte) (bs : List Byte) :
    hexText (b :: bs) = hexDigit (b.toNat / 16) :: hexDigit (b.toNat % 16) :: hexText bs := rfl

/-- R231: the two digits of byte `k`, the high one first. -/
theorem hexText_getElem? {bs : List Byte} {k : Nat} {b : Byte} (h : bs[k]? = some b) :
    (hexText bs)[2 * k]? = some (hexDigit (b.toNat / 16)) ∧
    (hexText bs)[2 * k + 1]? = some (hexDigit (b.toNat % 16)) := by
  induction bs generalizing k with
  | nil => cases h
  | cons c cs ih =>
    rw [hexText_cons]
    cases k with
    | zero =>
      obtain rfl := Option.some.inj h
      exact ⟨rfl, rfl⟩
    | succ k => exact ih h

/-- R12: a letter's code counts on from `a` = 0x57 + 10. -/
theorem hexDigit_eq (n : Nat) :
    hexDigit n = if n < 10 then BitVec.ofNat 8 (0x30 + n) else BitVec.ofNat 8 (0x57 + n) := by
  rw [hexDigit]
  split
  · rfl
  · congr 1
    omega

theorem isHexOf_hexText (bs : List Byte) : isHexOf bs (hexText bs) := by
  refine ⟨length_hexText bs, fun k b hb => ?_⟩
  simp only [← hexDigit_eq]
  exact hexText_getElem? hb

/-! ## Maximal runs (R232) -/

theorem maximalRuns_iff (text : List Byte) (rs : List (Byte × Nat)) : maximalRuns text rs ↔ rs = runsOf text := by
  constructor
  · rintro ⟨hpos, hchain, rfl⟩
    exact (runsOf_unruns rs hpos hchain).symm
  · rintro rfl
    obtain ⟨hpos, hchain⟩ := runsOf_maximal text
    exact ⟨hpos, hchain, (unruns_runsOf text).symm⟩

theorem length_unruns (rs : List (Byte × Nat)) : (unruns rs).length = (rs.map Prod.snd).sum := by
  simp [unruns, List.length_flatMap]

/-- R232: the digit of a run is a digit of the text. -/
theorem mem_of_mem_runsOf {text : List Byte} {r : Byte × Nat} (h : r ∈ runsOf text) : r.1 ∈ text := by
  have hpos : 1 ≤ r.2 := (runsOf_maximal text).1 r h
  have hmem : r.1 ∈ unruns (runsOf text) :=
    List.mem_flatMap.mpr ⟨r, h, List.mem_replicate.mpr ⟨Nat.ne_of_gt hpos, rfl⟩⟩
  rwa [unruns_runsOf] at hmem

/-! ## The payload (R234, R235) -/

/-- R235: a run's text is not longer than the run. -/
theorem length_acsRun_le (r : Byte × Nat) : (acsRun r).length ≤ r.2 := by
  rw [acsRun]
  split
  · next h => simpa using length_acsCount h
  · simp

theorem length_acsPayload_le (bs : List Byte) : (acsPayload bs).length ≤ 2 * bs.length := by
  calc (acsPayload bs).length
      = ((runsOf (hexText bs)).map fun r => (acsRun r).length).sum := List.length_flatMap
    _ ≤ ((runsOf (hexText bs)).map Prod.snd).sum := List.sum_le_sum fun r _ => length_acsRun_le r
    _ = (unruns (runsOf (hexText bs))).length := (length_unruns _).symm
    _ = 2 * bs.length := by rw [unruns_runsOf, length_hexText]

/-- Settles O35: `runsOf` is the one cut, and no run's text is longer than the run. -/
theorem acsNeverExpands : Obligations.AcsNeverExpands := by
  intro bs
  refine ⟨isHexOf_hexText bs, ⟨runsOf (hexText bs), (maximalRuns_iff _ _).mpr rfl, fun rs => (maximalRuns_iff _ rs).mp⟩,
    fun rs hrs => ?_, length_acsPayload_le bs⟩
  rw [(maximalRuns_iff _ _).mp hrs]
  rfl

/-! ## The decoder (R236) -/

theorem markerValue_hexDigit {n : Nat} (h : n < 16) : markerValue (hexDigit n) = none := by
  interval_cases n <;> rfl

/-- R231, R233: no character of the hex text is a marker. -/
theorem markerValue_of_mem_hexText {bs : List Byte} {c : Byte} (h : c ∈ hexText bs) : markerValue c = none := by
  obtain ⟨b, -, hc⟩ := List.mem_flatMap.mp h
  have hb := b.isLt
  simp only [hex2, List.mem_cons, List.not_mem_nil, or_false] at hc
  rcases hc with rfl | rfl
  · exact markerValue_hexDigit (by omega)
  · exact markerValue_hexDigit (Nat.mod_lt _ (by decide))

theorem acsDecode_digit {d : Byte} (h : markerValue d = none) (n : Nat) (l : List Byte) :
    acsDecode n (d :: l) = List.replicate (if n = 0 then 1 else n) d ++ acsDecode 0 l := by
  rw [acsDecode, h]

theorem acsDecode_marker {c : Byte} {k : Nat} (h : markerValue c = some k) (n : Nat) (l : List Byte) :
    acsDecode n (c :: l) = acsDecode (n + k) l := by
  rw [acsDecode, h]

/-- A marker group adds the sum of its counts. -/
theorem acsDecode_markers {ms : List Byte} {ks : List Nat} (h : ms.map markerValue = ks.map some) (n : Nat)
    (l : List Byte) : acsDecode n (ms ++ l) = acsDecode (n + ks.sum) l := by
  induction ms generalizing ks n with
  | nil =>
    obtain rfl : ks = [] := by simpa using h.symm
    rfl
  | cons m ms ih =>
    cases ks with
    | nil => cases h
    | cons k ks =>
      obtain ⟨hm, hms⟩ := List.cons.inj h
      rw [List.cons_append, acsDecode_marker hm, ih hms, List.sum_cons, Nat.add_assoc]

theorem acsDecode_acsCount (len : Nat) (l : List Byte) : acsDecode 0 (acsCount len ++ l) = acsDecode len l := by
  rw [acsDecode_markers (map_markerValue_acsCount len), sum_acsCounts, Nat.zero_add]

theorem acsDecode_replicate {d : Byte} (h : markerValue d = none) (n : Nat) (l : List Byte) :
    acsDecode 0 (List.replicate n d ++ l) = List.replicate n d ++ acsDecode 0 l := by
  induction n with
  | zero => rfl
  | succ n ih =>
    rw [List.replicate_succ, List.cons_append, acsDecode_digit h, ih]
    rfl

/-- R236: the text of one run decodes to the run. -/
theorem acsDecode_acsRun {r : Byte × Nat} (h : markerValue r.1 = none) (l : List Byte) :
    acsDecode 0 (acsRun r ++ l) = List.replicate r.2 r.1 ++ acsDecode 0 l := by
  rw [acsRun]
  split
  · next hlen =>
    rw [List.append_assoc, acsDecode_acsCount, List.singleton_append, acsDecode_digit h, if_neg (by omega)]
  · exact acsDecode_replicate h r.2 l

theorem acsDecode_flatMap_acsRun {rs : List (Byte × Nat)} (h : ∀ r ∈ rs, markerValue r.1 = none) :
    acsDecode 0 (rs.flatMap acsRun) = unruns rs := by
  induction rs with
  | nil => rfl
  | cons r rs ih =>
    obtain ⟨hr, hrs⟩ := List.forall_mem_cons.mp h
    rw [List.flatMap_cons, acsDecode_acsRun hr, ih hrs]
    rfl

/-- Settles O34: each run's text decodes to the run, since no digit of the text is a marker. -/
theorem acsPayloadDecodesToTheHex : Obligations.AcsPayloadDecodesToTheHex := by
  intro bs
  have hdigits : ∀ r ∈ runsOf (hexText bs), markerValue r.1 = none :=
    fun r hr => markerValue_of_mem_hexText (mem_of_mem_runsOf hr)
  rw [acsPayload, acsDecode_flatMap_acsRun hdigits, unruns_runsOf]

/-! ## ENC.ACS (R234) -/

/-- Settles O29: the check passes, and the one stage ends as the payload's size says. -/
theorem encAcsWritesThePayload : Obligations.EncAcsWritesThePayload := by
  intro s packed hi h0 hv
  have hcheck : encCheck s.clearReport = none := encCheck_valid (s := s.clearReport) hv
  have hstage : (Stage.enc .acs).perform s = writePayload (acsPayload packed) s := rfl
  rw [exec_enc (by decide), issue_runFrom hi h0 rfl hcheck]
  refine ⟨fun hfits => ?_, fun hover => ?_⟩
  · rw [runFrom_last (hstage.trans (writePayload_fits hfits))]
    rfl
  · rw [runFrom_abort (hstage.trans (writePayload_overflow hover))]
    rfl

end Sys2Proof.Machine
end

section
/-! SUPPORT. Exceptions and completion (60_exceptions.md): no instruction faults (R252, R258), the interrupt line
follows DONE (R262), and the report stays consistent (R251). -/

namespace Sys2Proof.Machine

/-! ## Totality (R252, R258) -/

/-- Settles O5: each outcome that an instruction can have is a next state. -/
theorem everyInstructionAnswersNext : Obligations.EveryInstructionAnswersNext := exec_next

/-! ## The interrupt line (R262) -/

/-- R100, R105: in a state that a command leaves, DONE is the opposite of BUSY. -/
theorem BusyOrDone.done_eq {s : State} (h : BusyOrDone s) : s.done = !s.busy := by
  rcases h with ⟨hb, hd, -⟩ | ⟨hb, hd⟩ <;> rw [hb, hd] <;> rfl

/-- R28: no command changes DONE_IE. -/
theorem exec_idle_doneIe {i : Instr} {s t : State} (hi : s.seq = .idle) (hr : i ≠ .softReset)
    (h : exec i s = .next t) : t.doneIe = s.doneIe := by
  obtain ⟨-, -, -, -, hie, -⟩ := (exec_idle_onlyWrites hi hr h).outside
  exact hie

/-- Settles O54: a command ends idle with DONE = 1 or still runs with DONE = 0, and keeps DONE_IE. -/
theorem interruptFollowsCompletion : Obligations.InterruptFollowsCompletion := by
  refine ⟨fun i s t hp hr hi h => ?_, fun s v hv => ?_, fun s v hv => ?_⟩
  · rw [State.irq, (busyOrDone_exec hp hr hi h).done_eq, exec_idle_doneIe hi hr h, busy_eq_decide, decide_not,
      Bool.not_not]
  · rw [State.irq, State.writeCsr, writeStatus_done, hv, Bool.not_true, Bool.and_false, Bool.false_and]
  · rw [State.irq, State.writeCsr, writeIrqEn_doneIe, hv, Bool.and_false]

/-! ## The report (R100, R105, R251) -/

theorem reportOk_iff (s : State) :
    s.reportOk = true ↔ (s.err = .none → s.errInfo = 0) ∧ (s.busy = true → ReportClear s) := by
  unfold State.reportOk ReportClear
  cases s.busy <;> cases s.done <;> by_cases he : s.err = .none <;> simp [he]

theorem reportOk_of_clear {s : State} (h : ReportClear s) : s.reportOk = true :=
  have ⟨_, _, hinfo⟩ := h
  (reportOk_iff s).mpr ⟨fun _ => hinfo, fun _ => h⟩

/-- R251: an idle block may show any detail beside an error. -/
theorem reportOk_of_error {s : State} (hi : s.seq = .idle) (he : s.err ≠ .none) : s.reportOk = true :=
  (reportOk_iff s).mpr ⟨fun e => absurd e he, fun hb => absurd hi ((busy_iff s).mp hb)⟩

theorem reportClear_of_run {s : State} {cmd : Instr} {st : Stage} {rest : List Stage} {left : Nat}
    (h : s.reportOk = true) (hrun : s.seq = .run cmd st rest left) : ReportClear s :=
  ((reportOk_iff s).mp h).2 (busy_eq_true (by simp [hrun]))

/-- R104, R105: a stage that aborts reports an error; one that succeeds reports nothing. -/
theorem reportOk_runStages {s : State} (h : ReportClear s) (cmd : Instr) (st : Stage) (rest : List Stage) :
    (runStages cmd st rest s).reportOk = true := by
  refine runStages_induct (P := fun _ _ u => ReportClear u) (Q := fun t => t.reportOk = true) ?abort ?last ?wait ?next
    rest st s h
  case abort => intro _ _ _ _ _ _ _ hr; exact reportOk_of_error rfl (runStage_abort_code hr)
  case last =>
    intro _ _ _ hu hr
    obtain ⟨-, -, hinfo⟩ := reportClear_runStage hu hr
    exact (reportOk_iff _).mpr ⟨fun _ => hinfo, nofun⟩
  case wait =>
    intro _ st' r _ _ hu hr
    exact reportOk_of_clear (reportClear_enter (reportClear_runStage hu hr) cmd st' r)
  case next => intro _ st' r _ _ hu hr; exact reportClear_enter (reportClear_runStage hu hr) cmd st' r

theorem reportOk_accept {s : State} (h : ReportClear s) (cmd : Instr) (st : Stage) (rest : List Stage) :
    (s.accept cmd st rest).reportOk = true := by
  have he := reportClear_enter h cmd st rest
  unfold State.accept
  split
  · exact reportOk_runStages he cmd st rest
  · exact reportOk_of_clear he

/-- R135: the one error that CRC.FEED records is a character out of range. -/
theorem reportOk_crcFeedIdle {s : State} (hi : s.seq = .idle) (h : s.reportOk = true) (v : Word) :
    (crcFeedIdle v s).reportOk = true := by
  unfold crcFeedIdle
  split
  · exact h
  · split
    · exact reportOk_of_error hi nofun
    · exact h

theorem reportOk_exec {i : Instr} {s t : State} (h : exec i s = .next t) (hs : s.reportOk = true) :
    t.reportOk = true := by
  rcases exec_cases i s with ⟨-, e⟩ | ⟨v, -, e⟩ | ⟨-, -, check, st, rest, hst, e, -, -, -, -, hcode⟩ <;>
    obtain rfl := Host.Outcome.next.inj (h.symm.trans e)
  · rfl
  · by_cases hi : s.seq = .idle
    · simpa [busy_eq_false hi] using reportOk_crcFeedIdle hi hs v
    · rw [busy_eq_true hi]
      exact hs
  · rcases issue_cases i check s hst with ⟨-, e⟩ | ⟨hi, code, info, hc, e⟩ | ⟨-, -, e⟩ <;> rw [e]
    · exact hs
    · exact reportOk_of_error hi (hcode _ _ _ hc)
    · exact reportOk_accept ⟨rfl, rfl, rfl⟩ i st rest

theorem reportOk_badCommand {s : State} (h : s.reportOk = true) (wd : Word) : (badCommand wd s).reportOk = true := by
  by_cases hi : s.seq = .idle
  · rw [badCommand_idle hi]
    exact reportOk_of_error hi nofun
  · rw [badCommand_busy hi]
    exact h

/-- R24: a plain write never sets DONE. -/
theorem performWrite_done {s : State} (h : s.done = false) (n : Nat) (p : Place) (v : Word) :
    (performWrite n p v s).done = false := by
  cases p with
  | csr c =>
    cases c with
    | status => simp [performWrite, State.writeCsr, h]
    | _ => exact h
  | _ => exact h

theorem reportOk_performWrite {s : State} (h : s.reportOk = true) (n : Nat) (p : Place) (v : Word) :
    (performWrite n p v s).reportOk = true := by
  obtain ⟨hseq, -, -, -, -, herr, hinfo, -⟩ := performWrite_frame n p v s
  obtain ⟨hdetail, hclear⟩ := (reportOk_iff s).mp h
  refine (reportOk_iff _).mpr ⟨by rwa [herr, hinfo], fun hb => ?_⟩
  rw [busy_iff, hseq, ← busy_iff] at hb
  obtain ⟨hd, he, hi⟩ := hclear hb
  exact ⟨performWrite_done hd n p v, herr.trans he, hinfo.trans hi⟩

theorem reportOk_access {s t : State} (h : Access s t) (hs : s.reportOk = true) : t.reportOk = true := by
  cases h with
  | read n a p _ => rcases readPlace_cases n.bytes p s with ⟨-, e⟩ | ⟨-, e⟩ <;> rw [e] <;> exact hs
  | instr i t h => exact reportOk_exec h hs
  | badWord wd => exact reportOk_badCommand hs wd
  | write n a p v _ =>
    rcases writePlace_cases n.bytes p v s with ⟨-, -, e⟩ | ⟨-, e⟩ <;> rw [e]
    · exact hs
    · exact reportOk_performWrite hs n.bytes p v

/-- Settles O57: only the end of a command, a reject and CRC.FEED on an idle block report anything, each error with a
code that is not 0; a command starts with a clear report. -/
theorem stepKeepsTheReportConsistent : Obligations.StepKeepsTheReportConsistent :=
  fun _ _ hs h => step_induct (P := fun u => u.reportOk = true) h hs
    (inputs := fun _ _ hu => hu)
    (stages := fun _ cmd st rest _ hu e => reportOk_runStages (reportClear_of_run hu e) cmd st rest)
    (count := fun u _ _ _ _ hu e =>
      have hclear : ReportClear u := reportClear_of_run hu e
      reportOk_of_clear hclear)
    (reset := fun _ _ => rfl)
    (power := fun _ _ => rfl)
    (wait := fun _ hu => hu)
    (access := fun _ _ hu ha => reportOk_access ha hu)

end Sys2Proof.Machine
end

section
/-! SUPPORT. The state at the end of a command does not depend on how long its stages took
(70_reset_and_hazards.md R291). -/

namespace Sys2Proof.Machine

/-! ## Commands run to their end -/

/-- R108: `runStages` without times: the stage in progress and all stages after it, up to the end of the command. -/
def runToEnd (cmd : Instr) : Stage → List Stage → State → State
  | st, [], s => (runStage st s).finish
  | st, st' :: rest, s =>
    match runStage st s with
    | .ok s1 => runToEnd cmd st' rest (s1.enter cmd st' rest)
    | .abort code info s1 => (s1.report code info).complete

/-- The state in which the running command ends. -/
def State.atEnd (s : State) : State :=
  match s.seq with
  | .idle => s
  | .run cmd st rest _ => runToEnd cmd st rest s

theorem atEnd_idle {s : State} (h : s.seq = .idle) : s.atEnd = s := by
  simp [State.atEnd, h]

theorem atEnd_run {s : State} {cmd : Instr} {st : Stage} {rest : List Stage} {left : Nat}
    (h : s.seq = .run cmd st rest left) : s.atEnd = runToEnd cmd st rest s := by
  simp [State.atEnd, h]

theorem atEnd_finish (e : StageEnd) : e.finish.atEnd = e.finish := by
  cases e <;> rfl

/-- R291: where `runStages` stops at a stage that takes time, the rest of the command is still the same. -/
theorem atEnd_runStages (cmd : Instr) (st : Stage) (rest : List Stage) (s : State) :
    (runStages cmd st rest s).atEnd = runToEnd cmd st rest s := by
  induction rest generalizing st s with
  | nil => rw [runStages_last, atEnd_finish, runToEnd]
  | cons st' rest ih =>
    rw [runToEnd]
    cases hr : runStage st s with
    | abort code info s1 => rw [runStages_abort hr]; rfl
    | ok s1 =>
      rw [runStages_next hr]
      split
      · exact ih st' (s1.enter cmd st' rest)
      · rfl

theorem atEnd_finishStage (s : State) : (finishStage s).atEnd = s.atEnd := by
  unfold finishStage
  split
  · rfl
  · next hs => rw [atEnd_runStages, atEnd_run hs]

theorem atEnd_accept (cmd : Instr) (st : Stage) (rest : List Stage) (s : State) :
    (s.accept cmd st rest).atEnd = runToEnd cmd st rest (s.enter cmd st rest) := by
  unfold State.accept
  split
  · exact atEnd_runStages cmd st rest (s.enter cmd st rest)
  · rfl

/-! ## Three stages are enough -/

theorem seq_idle_of_pending {s : State} (h : s.pending = 0) : s.seq = .idle := by
  cases hs : s.seq with
  | idle => rfl
  | run cmd st rest left => rw [pending_run hs] at h; omega

theorem finishStage_pending_le (s : State) : (finishStage s).pending ≤ s.pending - 1 := by
  by_cases hs : s.seq = .idle
  · simp [finishStage, hs, pending_idle hs]
  · have hless := finishStage_pending hs
    omega

/-- R108: a legal sequencer has at most three stages left, so three ends of a stage leave the block idle. -/
theorem drain_seq {s : State} (h : s.seqOk = true) : (drain s).seq = .idle := by
  have h0 := pending_le_three h
  have h1 := finishStage_pending_le s
  have h2 := finishStage_pending_le (finishStage s)
  have h3 := finishStage_pending_le (finishStage (finishStage s))
  exact seq_idle_of_pending (by unfold drain; omega)

theorem drain_eq_atEnd {s : State} (h : s.seqOk = true) : drain s = s.atEnd := by
  rw [← atEnd_idle (drain_seq h)]
  simp only [drain, atEnd_finishStage]

/-! ## Other times -/

/-- `s` with the times of the stages to come fixed as `l`, and the sequencer at `q`. -/
def State.retimed (l : List Nat) (q : Seq) (s : State) : State := { s with stalls := l, seq := q }

/-- `s` with the times of the stages to come fixed as `l` (log 2). -/
def State.withTimes (l : List Nat) (s : State) : State := { s with stalls := l }

/-- R291: a stage neither reads nor writes a time. -/
theorem runStage_retimed (st : Stage) (l : List Nat) (q : Seq) (s : State) :
    runStage st (s.retimed l q) = (runStage st s).map (State.retimed l q) := by
  have hother : runStage st (s.retimed l q) = (runStage st s).map (s.retimed l q).putFrame :=
    runStage_putFrame st (s.retimed l q) s
  have hsame : runStage st s = (runStage st s).map s.putFrame := runStage_putFrame st s s
  rw [hother, hsame]
  cases runStage st s <;> rfl

theorem enter_retimed (cmd : Instr) (st : Stage) (rest : List Stage) (l : List Nat) (q : Seq) (s : State) :
    (s.retimed l q).enter cmd st rest =
      (s.enter cmd st rest).retimed l.tail (.run cmd st rest (s.retimed l q).nextStall) := by
  rw [enter_eq, enter_eq]
  rfl

/-- R291: nor does the rest of a command, but for the list of times itself. -/
theorem runToEnd_retimed (cmd : Instr) (st : Stage) (rest : List Stage) (l : List Nat) (q : Seq) (s : State) :
    (runToEnd cmd st rest (s.retimed l q)).withTimes [] = (runToEnd cmd st rest s).withTimes [] := by
  induction rest generalizing st l q s with
  | nil =>
    rw [runToEnd, runToEnd, runStage_retimed]
    cases runStage st s <;> rfl
  | cons st' rest ih =>
    rw [runToEnd, runToEnd, runStage_retimed]
    cases runStage st s with
    | abort code info s1 => rfl
    | ok s1 =>
      simp only [StageEnd.map, enter_retimed]
      exact ih st' _ _ _

/-! ## An instruction under other times -/

/-- R100: every instruction but SOFT.RESET and CRC.FEED is a command with stages, and its acceptance check reads no
time. -/
theorem exec_command {i : Instr} (hr : i ≠ .softReset) (hf : ∀ v, i ≠ .crcFeed v) :
    ∃ check st rest, stagesOf i = st :: rest ∧ (∀ s, exec i s = .next (issue i check s)) ∧
      ∀ l s, check (State.withTimes l s) = check s := by
  cases i with
  | softReset => exact absurd rfl hr
  | crcFeed v => exact absurd rfl (hf v)
  | _ => exact ⟨_, _, _, rfl, fun _ => rfl, fun _ _ => rfl⟩

/-- R291: a command is rejected, or accepted and ended, alike under every list of times. -/
theorem atEnd_issue_withTimes {cmd : Instr} {check : State → Option (ErrCode × Word)} {st : Stage} {rest : List Stage}
    (hs : stagesOf cmd = st :: rest) (hc : ∀ l s, check (State.withTimes l s) = check s) (l : List Nat) {s : State}
    (hi : s.seq = .idle) :
    (issue cmd check (s.withTimes l)).atEnd.withTimes [] = (issue cmd check s).atEnd.withTimes [] := by
  have hi' : (s.withTimes l).seq = .idle := hi
  have hc' : check (s.withTimes l).clearReport = check s.clearReport := hc l s.clearReport
  cases h : check s.clearReport with
  | some p =>
    obtain ⟨code, info⟩ := p
    rw [issue_reject hi h, issue_reject hi' (hc'.trans h), atEnd_idle (s := s.rejected code info) hi,
      atEnd_idle (s := (s.withTimes l).rejected code info) hi]
    rfl
  | none =>
    rw [issue_accept hi hs h, issue_accept hi' hs (hc'.trans h), atEnd_accept, atEnd_accept]
    have henter := enter_retimed cmd st rest l s.seq s.clearReport
    exact (congrArg (fun u => (runToEnd cmd st rest u).withTimes []) henter).trans (runToEnd_retimed ..)

theorem crcFeedIdle_withTimes (v : Word) (l : List Nat) (s : State) :
    crcFeedIdle v (s.withTimes l) = (crcFeedIdle v s).withTimes l := by
  cases h : s.crcErr with
  | true => rw [crcFeedIdle_frozen h, crcFeedIdle_frozen (s := s.withTimes l) h]
  | false =>
    by_cases hv : v.toNat ≤ 255
    · rw [crcFeedIdle_step h hv, crcFeedIdle_step (s := s.withTimes l) h hv]
      rfl
    · have hv := Nat.lt_of_not_le hv
      rw [crcFeedIdle_outOfRange h hv, crcFeedIdle_outOfRange (s := s.withTimes l) h hv]
      rfl

theorem resetBlock_idle {s : State} (h : s.seq = .idle) : s.resetBlock = s.resetRegs := by
  simp [State.resetBlock, State.endCommand, State.gridOpen, State.packOpen, State.outOpen, h]

/-- R291: on an idle block the state in which an instruction ends is the same for every list of times. -/
theorem atEnd_exec_withTimes {i : Instr} {s t t' : State} {l : List Nat} (hi : s.seq = .idle) (h : exec i s = .next t)
    (h' : exec i (s.withTimes l) = .next t') : t'.atEnd.withTimes [] = t.atEnd.withTimes [] := by
  by_cases hr : i = .softReset
  · subst hr
    obtain rfl := Host.Outcome.next.inj h
    obtain rfl := Host.Outcome.next.inj h'
    rw [resetBlock_idle hi, resetBlock_idle (s := s.withTimes l) hi]
    rfl
  · by_cases hf : ∃ v, i = .crcFeed v
    · obtain ⟨v, rfl⟩ := hf
      rw [exec_crcFeed_idle hi] at h
      rw [exec_crcFeed_idle (s := s.withTimes l) hi, crcFeedIdle_withTimes] at h'
      obtain rfl := Host.Outcome.next.inj h
      obtain rfl := Host.Outcome.next.inj h'
      have hidle := (crcFeedIdle_seq v s).trans hi
      rw [atEnd_idle hidle, atEnd_idle (s := (crcFeedIdle v s).withTimes l) hidle]
      rfl
    · obtain ⟨check, st, rest, hs, he, hc⟩ := exec_command hr (not_exists.mp hf)
      obtain rfl := Host.Outcome.next.inj ((he s).symm.trans h)
      obtain rfl := Host.Outcome.next.inj ((he (s.withTimes l)).symm.trans h')
      exact atEnd_issue_withTimes hs hc l hi

/-- Settles O46: draining a command gives the state in which it ends, and that is the same for every list of times. -/
theorem durationDoesNotChangeTheResult : Obligations.DurationDoesNotChangeTheResult := by
  intro i s t t' l hi h h'
  have hok : t.seqOk = true := seqOk_kept.exec h (seqOk_idle hi)
  have hok' : t'.seqOk = true := seqOk_kept.exec h' (seqOk_idle hi)
  refine ⟨?_, drain_seq hok⟩
  rw [drain_eq_atEnd hok, drain_eq_atEnd hok']
  exact (atEnd_exec_withTimes hi h h').symm

end Sys2Proof.Machine
end
